-- ==== Sys2Proof/Word.lean ====
section
/-! DEFINITION. The word types of CORE (spec/00_scope.md rules R5 to R8): every value is unsigned; a general register
and a memory byte have 8 bits, the address register, the program counter and a stack slot have 16. -/

namespace Sys2Proof

/-- `XLEN` = 8 bits: a general register, a byte of memory, an immediate (R5, R20, R86). -/
abbrev Byte := BitVec 8

/-- 16 bits: `I`, `pc`, a call stack slot, an instruction word (R5, R23, R25, R28, R81). -/
abbrev Word := BitVec 16

/-- The 12-bit address field `NNN` (R85). -/
abbrev Addr12 := BitVec 12

/-- The 4-bit count field `N` (R87). -/
abbrev Nibble := BitVec 4

/-- The index of a general register: 4 bits, so every index an instruction can name exists (R20, R88). -/
abbrev Reg := Fin 16

/-- `flag`, another name for `x[15]` (R8, R22). -/
abbrev flagReg : Reg := 15

end Sys2Proof
end

