-- ==== Sys2Proof/Syntax.lean ====
section
/-! DEFINITION. The instructions: one constructor per row of spec/opcode_table.json, the 35 tags and `UNKNOWN`
(spec/30_encoding.md rules R83, R84, R89). The operands are those of the tag's format (R83). -/

namespace Sys2Proof

/-- A decoded instruction: a tag with its operand fields (R82, R89). The docstrings give the encoding pattern. -/
inductive Instr where
  /-- `00E0` -/
  | cls
  /-- `00EE` -/
  | ret
  /-- `0NNN` other than `00E0` and `00EE` -/
  | sys (nnn : Addr12)
  /-- `1NNN` -/
  | jump (nnn : Addr12)
  /-- `2NNN` -/
  | call (nnn : Addr12)
  /-- `3XNN` -/
  | skipEqImm (x : Reg) (nn : Byte)
  /-- `4XNN` -/
  | skipNeqImm (x : Reg) (nn : Byte)
  /-- `5XY-`, the low nibble ignored (R93) -/
  | skipEqReg (x y : Reg)
  /-- `6XNN` -/
  | loadImm (x : Reg) (nn : Byte)
  /-- `7XNN` -/
  | addImm (x : Reg) (nn : Byte)
  /-- `8XY0` -/
  | move (x y : Reg)
  /-- `8XY1` -/
  | or (x y : Reg)
  /-- `8XY2` -/
  | and (x y : Reg)
  /-- `8XY3` -/
  | xor (x y : Reg)
  /-- `8XY4` -/
  | add (x y : Reg)
  /-- `8XY5` -/
  | sub (x y : Reg)
  /-- `8XY6`; `Y` is decoded and not used (R150) -/
  | shr (x y : Reg)
  /-- `8XY7` -/
  | subn (x y : Reg)
  /-- `8XYE`; `Y` is decoded and not used (R152) -/
  | shl (x y : Reg)
  /-- `9XY-`, the low nibble ignored (R93) -/
  | skipNeqReg (x y : Reg)
  /-- `ANNN` -/
  | loadAddrReg (nnn : Addr12)
  /-- `BNNN`; the `X` nibble is part of `NNN` (R124) -/
  | jumpOffset (nnn : Addr12)
  /-- `CXNN` -/
  | randomMask (x : Reg) (nn : Byte)
  /-- `DXYN` -/
  | draw (x y : Reg) (n : Nibble)
  /-- `EX9E` -/
  | skipIfPressed (x : Reg)
  /-- `EXA1` -/
  | skipIfNotPressed (x : Reg)
  /-- `FX07` -/
  | getDelay (x : Reg)
  /-- `FX0A` -/
  | waitKey (x : Reg)
  /-- `FX15` -/
  | setDelay (x : Reg)
  /-- `FX18` -/
  | setSound (x : Reg)
  /-- `FX1E` -/
  | addToAddr (x : Reg)
  /-- `FX29` -/
  | addrOfDigit (x : Reg)
  /-- `FX33` -/
  | storeBcd (x : Reg)
  /-- `FX55`; the count of R88 is `X + 1` (`Machine.regCount`) -/
  | saveRegs (x : Reg)
  /-- `FX65`; the count of R88 is `X + 1` (`Machine.regCount`) -/
  | restoreRegs (x : Reg)
  /-- every word no row above matches, with its raw bytes (R98) -/
  | unknown (hi lo : Byte)
  deriving DecidableEq, Repr

end Sys2Proof
end

