-- ==== Sys2Proof/WellFormed.lean ====
section
/-! DEFINITION. Which terms of `Instr` are instructions of this hardware (spec/30_encoding.md). Every operand field has
exactly its width by its type; what is left to check is that `sys` is not one of the two words that decode to `CLS` and
`RET` (R90), and that the raw bytes of `unknown` lie in the UNKNOWN space (R98). -/

namespace Sys2Proof

/-- The function values of group 8 that select an instruction (R94). -/
def group8Functions : List Nat := [0x0, 0x1, 0x2, 0x3, 0x4, 0x5, 0x6, 0x7, 0xE]

/-- The values of `lo` that select an instruction in group E (R96). -/
def groupEFunctions : List Nat := [0x9E, 0xA1]

/-- The values of `lo` that select an instruction in group F (R97). -/
def groupFFunctions : List Nat := [0x07, 0x0A, 0x15, 0x18, 0x1E, 0x29, 0x33, 0x55, 0x65]

/-- The UNKNOWN space (R98): `8XYN`, `EXNN` and `FXNN` with a function value that selects no instruction. -/
def unknownSpace (hi lo : Byte) : Bool :=
  (hi.toNat / 16 == 0x8 && !group8Functions.contains (lo.toNat % 16)) ||
  (hi.toNat / 16 == 0xE && !groupEFunctions.contains lo.toNat) ||
  (hi.toNat / 16 == 0xF && !groupFFunctions.contains lo.toNat)

/-- The check on a term of `Instr`. -/
def Instr.wf : Instr → Bool
  | .cls => true
  | .ret => true
  | .sys nnn => nnn != 0x0E0 && nnn != 0x0EE
  | .jump _ => true
  | .call _ => true
  | .skipEqImm _ _ => true
  | .skipNeqImm _ _ => true
  | .skipEqReg _ _ => true
  | .loadImm _ _ => true
  | .addImm _ _ => true
  | .move _ _ => true
  | .or _ _ => true
  | .and _ _ => true
  | .xor _ _ => true
  | .add _ _ => true
  | .sub _ _ => true
  | .shr _ _ => true
  | .subn _ _ => true
  | .shl _ _ => true
  | .skipNeqReg _ _ => true
  | .loadAddrReg _ => true
  | .jumpOffset _ => true
  | .randomMask _ _ => true
  | .draw _ _ _ => true
  | .skipIfPressed _ => true
  | .skipIfNotPressed _ => true
  | .getDelay _ => true
  | .waitKey _ => true
  | .setDelay _ => true
  | .setSound _ => true
  | .addToAddr _ => true
  | .addrOfDigit _ => true
  | .storeBcd _ => true
  | .saveRegs _ => true
  | .restoreRegs _ => true
  | .unknown hi lo => unknownSpace hi lo

/-- `i` is an instruction of this hardware. -/
abbrev Instr.WellFormed (i : Instr) : Prop := i.wf = true

end Sys2Proof
end

