-- ==== Sys2Proof/Decode.lean ====
section
/-! DEFINITION. The decoder, spec/30_encoding.md: the instruction word (R81), its fields (R82, R85 to R88), the decode
algorithm (R89, patterns R90 to R98), and the encoder written from the same pattern tables. `Decode` is total and never
fails: a word no pattern matches is `unknown` with its raw bytes. Only a byte sequence too short to hold an instruction
is rejected, by name. -/

namespace Sys2Proof

/-! ### The word and its fields -/

/-- `w = hi ++ lo` (R81): `hi` is the byte at the lower address (R55, D10; log entry 14). -/
def instrWord (hi lo : Byte) : Word := hi ++ lo

/-- `v[hi:lo]`, the bit slice of R6 as an unsigned number. -/
def bits (w : Word) (hi lo : Nat) : Nat := w.toNat / 2 ^ lo % 2 ^ (hi - lo + 1)

/-- `w[15:8]`. -/
def hiByte (w : Word) : Byte := BitVec.ofNat 8 (bits w 15 8)

/-- `w[7:0]`. -/
def loByte (w : Word) : Byte := BitVec.ofNat 8 (bits w 7 0)

/-- `X = w[11:8]` (R82, R88). -/
def fieldX (w : Word) : Reg := Fin.ofNat 16 (bits w 11 8)

/-- `Y = w[7:4]` (R82, R88). -/
def fieldY (w : Word) : Reg := Fin.ofNat 16 (bits w 7 4)

/-- `N = w[3:0]` (R82, R87). -/
def fieldN (w : Word) : Nibble := BitVec.ofNat 4 (bits w 3 0)

/-- `NN = w[7:0]` (R82, R86). -/
def fieldNN (w : Word) : Byte := BitVec.ofNat 8 (bits w 7 0)

/-- `NNN = w[11:0]` (R82, R85). -/
def fieldNNN (w : Word) : Addr12 := BitVec.ofNat 12 (bits w 11 0)

/-! ### The decode algorithm -/

/-- Group 0 (R90): `CLS` and `RET` need the whole word; every other word is `SYS`. -/
def decodeGroup0 (w : Word) : Instr :=
  if w = 0x00E0 then .cls else if w = 0x00EE then .ret else .sys (fieldNNN w)

/-- Group 8 (R94); the function values are the spec's, marked there as general knowledge (D14; log entry 13). -/
def decodeGroup8 (w : Word) : Instr :=
  match bits w 3 0 with
  | 0x0 => .move (fieldX w) (fieldY w)
  | 0x1 => .or (fieldX w) (fieldY w)
  | 0x2 => .and (fieldX w) (fieldY w)
  | 0x3 => .xor (fieldX w) (fieldY w)
  | 0x4 => .add (fieldX w) (fieldY w)
  | 0x5 => .sub (fieldX w) (fieldY w)
  | 0x6 => .shr (fieldX w) (fieldY w)
  | 0x7 => .subn (fieldX w) (fieldY w)
  | 0xE => .shl (fieldX w) (fieldY w)
  | _ => .unknown (hiByte w) (loByte w)

/-- Group E (R96). -/
def decodeGroupE (w : Word) : Instr :=
  match bits w 7 0 with
  | 0x9E => .skipIfPressed (fieldX w)
  | 0xA1 => .skipIfNotPressed (fieldX w)
  | _ => .unknown (hiByte w) (loByte w)

/-- Group F (R97); the function values are the spec's, marked there as general knowledge (D14; log entry 13). -/
def decodeGroupF (w : Word) : Instr :=
  match bits w 7 0 with
  | 0x07 => .getDelay (fieldX w)
  | 0x0A => .waitKey (fieldX w)
  | 0x15 => .setDelay (fieldX w)
  | 0x18 => .setSound (fieldX w)
  | 0x1E => .addToAddr (fieldX w)
  | 0x29 => .addrOfDigit (fieldX w)
  | 0x33 => .storeBcd (fieldX w)
  | 0x55 => .saveRegs (fieldX w)
  | 0x65 => .restoreRegs (fieldX w)
  | _ => .unknown (hiByte w) (loByte w)

/-- `Decode` on the instruction word, by its top nibble `op` (R89). -/
def decodeWord (w : Word) : Instr :=
  match bits w 15 12 with
  | 0x0 => decodeGroup0 w
  | 0x1 => .jump (fieldNNN w)
  | 0x2 => .call (fieldNNN w)
  | 0x3 => .skipEqImm (fieldX w) (fieldNN w)
  | 0x4 => .skipNeqImm (fieldX w) (fieldNN w)
  | 0x5 => .skipEqReg (fieldX w) (fieldY w)
  | 0x6 => .loadImm (fieldX w) (fieldNN w)
  | 0x7 => .addImm (fieldX w) (fieldNN w)
  | 0x8 => decodeGroup8 w
  | 0x9 => .skipNeqReg (fieldX w) (fieldY w)
  | 0xA => .loadAddrReg (fieldNNN w)
  | 0xB => .jumpOffset (fieldNNN w)
  | 0xC => .randomMask (fieldX w) (fieldNN w)
  | 0xD => .draw (fieldX w) (fieldY w) (fieldN w)
  | 0xE => decodeGroupE w
  | _ => decodeGroupF w

/-- `Decode(hi, lo)` (R89): total, and a function of the two bytes alone. -/
def decode (hi lo : Byte) : Instr := decodeWord (instrWord hi lo)

/-- Why a byte sequence holds no instruction. -/
inductive DecodeError where
  /-- Fewer than the two bytes every instruction has (R80). -/
  | truncated
  deriving DecidableEq, Repr

/-- The instruction at the head of a byte sequence and the bytes after it (R80: every instruction is two bytes). -/
def decodeBytes : List Byte → Except DecodeError (Instr × List Byte)
  | hi :: lo :: rest => .ok (decode hi lo, rest)
  | [_] => .error .truncated
  | [] => .error .truncated

/-- The instruction the decoder reads from the word `w` as spec/opcode_table.json numbers its bits (bit 0 is the least
significant bit of the 16-bit word): its bytes as memory holds them, `w[15:8]` first (R55, R81). Log entry 27. -/
def decodeTableWord (nbits w : Nat) : Option Instr :=
  match decodeBytes [hiByte (BitVec.ofNat 16 (w % 2 ^ nbits)), loByte (BitVec.ofNat 16 (w % 2 ^ nbits))] with
  | .ok (i, _) => some i
  | .error _ => none

/-! ### The encoder -/

/-- Format A (R83): the opcode nibble, then `NNN`. -/
def formatA (op : Nat) (nnn : Addr12) : Word := BitVec.ofNat 16 (op * 0x1000 + nnn.toNat)

/-- Formats XI and XF (R83): the opcode nibble, `X`, then an immediate or function byte. -/
def formatXI (op : Nat) (x : Reg) (nn : Byte) : Word := BitVec.ofNat 16 (op * 0x1000 + x.val * 0x100 + nn.toNat)

/-- Formats XY, XYF and XYN (R83): the opcode nibble, `X`, `Y`, then the last nibble. -/
def formatXY (op : Nat) (x y : Reg) (n : Nibble) : Word :=
  BitVec.ofNat 16 (op * 0x1000 + x.val * 0x100 + y.val * 0x10 + n.toNat)

/-- The word of an instruction (R90 to R98; canonical `5XY0` and `9XY0`, R93). -/
def encode : Instr → Word
  | .cls => 0x00E0
  | .ret => 0x00EE
  | .sys nnn => formatA 0x0 nnn
  | .jump nnn => formatA 0x1 nnn
  | .call nnn => formatA 0x2 nnn
  | .skipEqImm x nn => formatXI 0x3 x nn
  | .skipNeqImm x nn => formatXI 0x4 x nn
  | .skipEqReg x y => formatXY 0x5 x y 0x0
  | .loadImm x nn => formatXI 0x6 x nn
  | .addImm x nn => formatXI 0x7 x nn
  | .move x y => formatXY 0x8 x y 0x0
  | .or x y => formatXY 0x8 x y 0x1
  | .and x y => formatXY 0x8 x y 0x2
  | .xor x y => formatXY 0x8 x y 0x3
  | .add x y => formatXY 0x8 x y 0x4
  | .sub x y => formatXY 0x8 x y 0x5
  | .shr x y => formatXY 0x8 x y 0x6
  | .subn x y => formatXY 0x8 x y 0x7
  | .shl x y => formatXY 0x8 x y 0xE
  | .skipNeqReg x y => formatXY 0x9 x y 0x0
  | .loadAddrReg nnn => formatA 0xA nnn
  | .jumpOffset nnn => formatA 0xB nnn
  | .randomMask x nn => formatXI 0xC x nn
  | .draw x y n => formatXY 0xD x y n
  | .skipIfPressed x => formatXI 0xE x 0x9E
  | .skipIfNotPressed x => formatXI 0xE x 0xA1
  | .getDelay x => formatXI 0xF x 0x07
  | .waitKey x => formatXI 0xF x 0x0A
  | .setDelay x => formatXI 0xF x 0x15
  | .setSound x => formatXI 0xF x 0x18
  | .addToAddr x => formatXI 0xF x 0x1E
  | .addrOfDigit x => formatXI 0xF x 0x29
  | .storeBcd x => formatXI 0xF x 0x33
  | .saveRegs x => formatXI 0xF x 0x55
  | .restoreRegs x => formatXI 0xF x 0x65
  | .unknown hi lo => instrWord hi lo

/-- The tag's name, for diagnostics (R244; the lists of R90 to R98). -/
def Instr.tagName : Instr → String
  | .cls => "CLS"
  | .ret => "RET"
  | .sys _ => "SYS"
  | .jump _ => "JUMP"
  | .call _ => "CALL"
  | .skipEqImm _ _ => "SKIP_EQ_IMM"
  | .skipNeqImm _ _ => "SKIP_NEQ_IMM"
  | .skipEqReg _ _ => "SKIP_EQ_REG"
  | .loadImm _ _ => "LOAD_IMM"
  | .addImm _ _ => "ADD_IMM"
  | .move _ _ => "MOVE"
  | .or _ _ => "OR"
  | .and _ _ => "AND"
  | .xor _ _ => "XOR"
  | .add _ _ => "ADD"
  | .sub _ _ => "SUB"
  | .shr _ _ => "SHR"
  | .subn _ _ => "SUBN"
  | .shl _ _ => "SHL"
  | .skipNeqReg _ _ => "SKIP_NEQ_REG"
  | .loadAddrReg _ => "LOAD_ADDR_REG"
  | .jumpOffset _ => "JUMP_OFFSET"
  | .randomMask _ _ => "RANDOM_MASK"
  | .draw _ _ _ => "DRAW"
  | .skipIfPressed _ => "SKIP_IF_PRESSED"
  | .skipIfNotPressed _ => "SKIP_IF_NOT_PRESSED"
  | .getDelay _ => "GET_DELAY"
  | .waitKey _ => "WAIT_KEY"
  | .setDelay _ => "SET_DELAY"
  | .setSound _ => "SET_SOUND"
  | .addToAddr _ => "ADD_TO_ADDR"
  | .addrOfDigit _ => "ADDR_OF_DIGIT"
  | .storeBcd _ => "STORE_BCD"
  | .saveRegs _ => "SAVE_REGS"
  | .restoreRegs _ => "RESTORE_REGS"
  | .unknown _ _ => "UNKNOWN"

/-- The two bytes of an instruction as memory holds them, `hi` first (R55). -/
def encodeBytes (i : Instr) : List Byte := [hiByte (encode i), loByte (encode i)]

end Sys2Proof
end

