-- ==== Sys2Proof/Config.lean ====
section
/-! DEFINITION. The parameters of this hardware (spec/00_scope.md rule R5) and the values the spec leaves to the
environment. A constant declared `opaque` has no body: nothing in Lean can say which value it holds, so whatever is
proved of the model holds for every value of it. -/

namespace Sys2Proof.Config

/-- `MEM_SIZE`: bytes of addressable memory (R5, R50). -/
abbrev memSize : Nat := 4096

/-- `PROG_BASE`: load address of program code and reset value of `pc` (R5, R25). -/
abbrev progBase : Word := 0x200

/-- `STACK_DEPTH`: call stack slots (R5, R28). -/
abbrev stackDepth : Nat := 16

/-- `ILEN`: bytes per instruction, always (R5, R80). -/
abbrev ilen : Nat := 2

/-- `DISPLAY_W`: columns of the display grid (R5, R205). -/
abbrev displayW : Nat := 64

/-- `DISPLAY_H`: rows of the display grid (R5, R205). -/
abbrev displayH : Nat := 32

/-- `NKEYS`: logical keys (R5, R207). -/
abbrev nKeys : Nat := 16

/-- `DIGIT_ADDR`: the address of the 5-byte glyph of each hexadecimal digit, an OPEN parameter of the spec (R163, R212,
D27). The type keeps the one limit the spec sets, `DIGIT_ADDR(d) + 5 <= 0x200`, that is `DIGIT_ADDR(d) < 508`.
Log entry 5. -/
opaque digitAddr : Fin 16 → Fin 508

/-- `MEM_INIT`: what each byte of memory holds before anything has stored there, an OPEN parameter of the spec (R5, R51,
R264, D27). Log entry 4. -/
opaque memInit : Nat → Byte

/-- The largest program image, `MEM_SIZE - PROG_BASE` bytes (R264). -/
abbrev maxProgram : Nat := 3584

/-- FREE VALUE: the byte `rand` answers in the step that starts at environment tick `n` (R172, R206, D28). Log entry 7. -/
opaque randByte : Nat → Byte

/-- FREE VALUE: which of the 16 logical keys are down in the step that starts at tick `n` (R207, R216, U8). Log entry 8. -/
opaque keysDown : Nat → Vector Bool 16

/-- FREE VALUE: the key-press event, if any, that a `wait_key` finds in the step that starts at tick `n`; its key is one
of 0 to 15 (R177, R208, U11, U12). Log entry 8. -/
opaque keyPress : Nat → Option (Fin 16)

/-- FREE VALUE: what `get_key` answers for an index above 15 in the step that starts at tick `n` (R174, R207, D17).
Log entry 6. -/
opaque highKeyDown : Nat → Bool

/-- FREE VALUE: what `digit_sprite` answers for a digit above 15 in the step that starts at tick `n` (R163, R212, D17).
Log entry 6. -/
opaque highDigitAddr : Nat → Word

/-- FREE VALUE (`TIMER_RATE` is open, R214, D25): by how much the delay timer has decayed when the step that starts at
tick `n` begins. Log entry 9. -/
opaque delayDecay : Nat → Nat

/-- FREE VALUE (`TIMER_RATE` is open, R214, D25): by how much the sound timer has decayed when the step that starts at
tick `n` begins. Log entry 9. -/
opaque soundDecay : Nat → Nat

/-- FREE VALUE: the pixels of the display when the first step starts (R215, R263, U15). Log entry 10. -/
opaque displayAtStart : Vector (Vector Bool 64) 32

/-- FREE VALUE: the delay timer when the first step starts (R214, R263, U15). Log entry 10. -/
opaque delayAtStart : Byte

/-- FREE VALUE: the sound timer when the first step starts (R214, R263, U15). Log entry 10. -/
opaque soundAtStart : Byte

end Sys2Proof.Config
end

