-- ==== Sys2Proof/Machine/State.lean ====
section
/-! DEFINITION. The state of the machine as plain data (spec/10_state.md rules R20 to R38, spec/50_interfaces.md rules
R214 to R218), the reasons a step can stop, and the state right after reset. -/

namespace Sys2Proof.Machine

/-- The 4096 bytes of memory (R50): one cell for every byte something has been stored to, in rising order of address
(`Memory.wf`); an unlisted byte holds its byte of the open parameter `MEM_INIT` (`Memory.unlisted`, log entry 4). -/
abbrev Memory := List Host.Cell

/-- The display grid `disp[row][col]`: 32 rows of 64 one-bit pixels (R205, R215). -/
abbrev Display := Vector (Vector Bool 64) 32

/-- `STATUS` (R33). -/
inductive Status where
  | running
  | faulted
  deriving DecidableEq, Repr

/-- `FAULT_KIND` (R33, R230); its two-bit code is `FaultKind.code`. -/
inductive FaultKind where
  | none
  | outOfBounds
  | stackOverflow
  | stackUnderflow
  deriving DecidableEq, Repr

/-- One event `UnknownOpcode(pc0, hi, lo)` of the diagnostic port (R218). -/
structure UnknownOpcode where
  pc0 : Word
  hi : Byte
  lo : Byte
  deriving DecidableEq, Repr

/-- What the host reads on the status port: `STATUS` and the fault record, and for debugging the registers, `pc`, `sp` and the
stack (R200, R217, R244). -/
structure StatusPort where
  status : Status
  faultKind : FaultKind
  faultPc : Word
  faultAddr : Word
  x : Vector Byte 16
  I : Word
  pc : Word
  sp : Fin 17
  stack : Vector Word 16
  deriving DecidableEq, Repr

/-- A step of this machine never stops without a next state: each of the spec's three faults has an entry the spec
describes, a state with `STATUS = FAULTED` and the fault record written (R237), and that is a next state (log entry 1).
So there is no reason to stop with a fault and the type has no constructor. -/
inductive Fault
  deriving DecidableEq, Repr

/-- Why the model gives an instruction no meaning. -/
inductive Refusal where
  /-- Raised by an arm of `exec` whose instruction has no meaning yet (none is left). Safe: the model stops. -/
  | notModelled (mnemonic : String)
  deriving DecidableEq, Repr

/-- All state. The first group is CORE's own (R36), the second lies behind its memory, capability and diagnostic ports
(R35, R214 to R218), the third is the model's: it carries free values (log entries 3 and 6). -/
structure State where
  /-- `x[0]` to `x[15]` (R20); `x[15]` is the flag (R22). -/
  x : Vector Byte 16
  /-- The address register (R23). -/
  I : Word
  /-- The program counter: between steps, the address of the next instruction (R25). -/
  pc : Word
  /-- The number of return addresses held, 0 to 16 (R28, R29). -/
  sp : Fin 17
  /-- `stack[0]` to `stack[15]`; the slots below `sp` are live (R28, R29, R30). -/
  stack : Vector Word 16
  /-- `STATUS` (R33). -/
  status : Status
  /-- `FAULT_KIND` (R33). -/
  faultKind : FaultKind
  /-- `FAULT_PC` (R33). -/
  faultPc : Word
  /-- `FAULT_ADDR` (R33, C8). -/
  faultAddr : Word
  /-- The 4096-byte memory (R50). -/
  mem : Memory
  /-- The display grid (R215). -/
  display : Display
  /-- The delay timer (R214). -/
  delay : Byte
  /-- The sound timer (R214). -/
  sound : Byte
  /-- The logical keys, `true` when down (R216). -/
  keys : Vector Bool 16
  /-- The key-press event a `wait_key` would consume now (R208, R216). -/
  keyEvent : Option (Fin 16)
  /-- The byte the random source answers next (R206). -/
  rand : Byte
  /-- The events of the diagnostic port so far, oldest first (R218; log entry 22). -/
  diag : List UnknownOpcode
  /-- What `get_key` answers in this step for an index above 15 (R207, D17). -/
  highKey : Bool
  /-- What `digit_sprite` answers in this step for a digit above 15 (R212, D17). -/
  highDigit : Word
  /-- How often the environment has moved; the free values of `Config` are applied to it. -/
  tick : Nat
  deriving DecidableEq, Repr

/-- The machine right after reset (R36, R260): CORE as the table of R36 says; memory with nothing listed, that
is `MEM_INIT` (R51; log entry 4); the devices as they happen to be (R263; log entries 10 and 12). -/
def State.reset : State where
  x := Vector.replicate 16 0
  I := 0
  pc := Config.progBase
  sp := 0
  stack := Vector.replicate 16 0
  status := .running
  faultKind := .none
  faultPc := 0
  faultAddr := 0
  mem := []
  display := Config.displayAtStart
  delay := Config.delayAtStart
  sound := Config.soundAtStart
  keys := Vector.replicate 16 false
  keyEvent := none
  rand := 0
  diag := []
  highKey := false
  highDigit := 0
  tick := 0

/-- The three outcomes of a step of this machine. -/
abbrev Result := Host.Outcome State Fault Refusal

end Sys2Proof.Machine
end

