-- ==== Sys2Proof/Machine/Ops.lean ====
section
/-! DEFINITION. The operations every meaning is built from: general registers (spec/10_state.md), the memory requests
(spec/20_memory.md rules R53, R54), the call stack (R28, R29), taking a fault (spec/60_exceptions.md rule R237), the
host's reset (spec/70_reset_and_hazards.md rule R261) and the fetch (spec/40_system.md rule R110).

A meaning runs on the state in which `pc` is still `pc0`, the address of the instruction; it computes `npc` itself and
writes `pc` once, with its other writes, as R111 says they take effect (log entry 23). -/

namespace Sys2Proof.Machine

/-! ### Registers -/

/-- `x[r]` (R8, R20). -/
def State.reg (s : State) (r : Reg) : Byte := s.x[r.val]

/-- `x[r] <- v` (R8, R20): no register is hard-wired. -/
def State.setReg (s : State) (r : Reg) (v : Byte) : State := { s with x := s.x.set r.val v }

/-- `x[k] <- b[k]` for `k` from `r` on, as far as the bytes reach; the registers end at 15. -/
def State.setRegsFrom (s : State) : Nat → List Byte → State
  | _, [] => s
  | k, b :: bs => (if h : k < 16 then s.setReg ⟨k, h⟩ b else s).setRegsFrom (k + 1) bs

/-- `I <- v` (R23). -/
def State.setI (s : State) (v : Word) : State := { s with I := v }

/-- `pc <- v` (R8). -/
def State.setPc (s : State) (v : Word) : State := { s with pc := v }

/-- Memory replaced. -/
def State.setMem (s : State) (m : Memory) : State := { s with mem := m }

/-- `sp` and the stack slots replaced. -/
def State.setCallStack (s : State) (sp : Fin 17) (stack : Vector Word 16) : State := { s with sp := sp, stack := stack }

/-- `npc`, the address of the next sequential instruction (R26, R110). -/
def State.npc (s : State) : Word := s.pc + BitVec.ofNat 16 Config.ilen

/-- `pc <- npc` (R110). -/
def State.advance (s : State) : State := s.setPc s.npc

/-! ### Memory -/

/-- What a byte of memory that nothing has stored to reads as: its byte of `MEM_INIT`, which must not be assumed zero (R51,
log entry 4). -/
def Memory.unlisted (addr : Nat) : Byte := Config.memInit addr

/-- The canonical form: addresses strictly rising and inside memory. Two lists in it are equal exactly when they are the same
memory for every `MEM_INIT` (log entry 4). -/
def Memory.wf : Memory → Bool
  | [] => true
  | (a, _) :: m => decide (a < Config.memSize) && m.all (fun c => decide (a < c.1)) && Memory.wf m

/-- `mem[addr]`. -/
def Memory.read : Memory → Nat → Byte
  | [], addr => Memory.unlisted addr
  | (a, b) :: m, addr => if addr = a then b else Memory.read m addr

/-- `mem[addr] <- v`, keeping the canonical form. -/
def Memory.write : Memory → Nat → Byte → Memory
  | [], addr, v => [(addr, v)]
  | (a, b) :: m, addr, v =>
    if addr < a then (addr, v) :: (a, b) :: m
    else if addr = a then (addr, v) :: m
    else (a, b) :: Memory.write m addr v

/-- The `n` bytes at `addr`, `addr + 1`, and so on. -/
def Memory.readBytes (m : Memory) (addr : Nat) : Nat → List Byte
  | 0 => []
  | n + 1 => m.read addr :: Memory.readBytes m (addr + 1) n

/-- Stores a byte sequence in ascending address order. -/
def Memory.writeBytes (m : Memory) (addr : Nat) : List Byte → Memory
  | [] => m
  | b :: bs => Memory.writeBytes (m.write addr b) (addr + 1) bs

/-- `MemRead(addr, n)` (R53): `none` is the answer `OutOfBounds`. The sum is exact (R65). -/
def State.memRead (s : State) (addr : Word) (n : Nat) : Option (List Byte) :=
  if addr.toNat + n > Config.memSize then none else some (s.mem.readBytes addr.toNat n)

/-- `MemWrite(addr, n, v)` with `n` the length of `v` (R54): `none` is the answer `OutOfBounds`, and then nothing has
been written. -/
def State.memWrite (s : State) (addr : Word) (v : List Byte) : Option State :=
  if addr.toNat + v.length > Config.memSize then none else some (s.setMem (s.mem.writeBytes addr.toNat v))

/-! ### The call stack -/

/-- `stack[sp] <- v; sp <- sp + 1`, unless all 16 slots are in use (R29, R123). -/
def State.push (s : State) (v : Word) : Option State :=
  if h : s.sp.val < Config.stackDepth then
    some (s.setCallStack ⟨s.sp.val + 1, Nat.succ_lt_succ h⟩ (s.stack.set s.sp.val v))
  else none

/-- `sp <- sp - 1`, with the address in the slot at the new `sp`, unless the stack is empty (R29, R121). The slot keeps
its value (R30). -/
def State.pop (s : State) : Option (Word × State) :=
  if h : 0 < s.sp.val then
    some (s.stack[s.sp.val - 1],
      s.setCallStack ⟨s.sp.val - 1, Nat.lt_of_le_of_lt (Nat.sub_le _ _) s.sp.isLt⟩ s.stack)
  else none

/-! ### Faults -/

/-- The two-bit code of `FAULT_KIND` (R33, R230). -/
def FaultKind.code : FaultKind → BitVec 2
  | .none => 0
  | .outOfBounds => 1
  | .stackOverflow => 2
  | .stackUnderflow => 3

/-- Fault entry (R237): `FAULT_KIND`, `FAULT_PC = pc0`, `FAULT_ADDR` and `STATUS = FAULTED` are written and nothing else
is (R235): `s` is the state before the step's effects, so `s.pc` is `pc0`. -/
def State.takeFault (s : State) (kind : FaultKind) (addr : Word) : State :=
  { s with status := .faulted, faultKind := kind, faultPc := s.pc, faultAddr := addr }

/-- `raise kind(addr)` (R10): the step ends in the fault state. There is no return from it but the host's reset (R239). -/
def State.raise (s : State) (kind : FaultKind) (addr : Word) : Result := .next (s.takeFault kind addr)

/-- A completed step that writes `pc` with nothing but `npc` (R110, R111). -/
def State.finish (s : State) : Result := .next s.advance

/-- A skip (R120, R125): `pc <- npc + 2` when the condition holds, else `npc`. -/
def State.skipIf (s : State) (cond : Bool) : Result :=
  .next (s.setPc (if cond then s.npc + BitVec.ofNat 16 Config.ilen else s.npc))

/-- A step that makes the request `MemRead(addr, n)` and goes on with the bytes, or raises `OutOfBounds(addr)` (R53). -/
def State.withRead (s : State) (addr : Word) (n : Nat) (k : List Byte → Result) : Result :=
  match s.memRead addr n with
  | none => s.raise .outOfBounds addr
  | some bytes => k bytes

/-- A step that makes the request `MemWrite(addr, n, v)` and goes on, or raises `OutOfBounds(addr)` (R54). -/
def State.withWrite (s : State) (addr : Word) (v : List Byte) (k : State → Result) : Result :=
  match s.memWrite addr v with
  | none => s.raise .outOfBounds addr
  | some s' => k s'

/-! ### The fetch and the host's ports -/

/-- The bytes `(hi, lo)` at `pc` and `pc + 1`, or `none` when `pc + 2 > 4096` (R110, R231). -/
def State.fetch (s : State) : Option (Byte × Byte) :=
  (s.memRead s.pc Config.ilen).map fun bytes => (bytes.getD 0 0, bytes.getD 1 0)

/-- One event on the diagnostic port (R218). -/
def State.emitUnknown (s : State) (hi lo : Byte) : State := { s with diag := s.diag ++ [⟨s.pc, hi, lo⟩] }

/-- What the host reads on the status port, in any state and changing nothing (R217, R244; log entry 25). -/
def State.statusPort (s : State) : StatusPort where
  status := s.status
  faultKind := s.faultKind
  faultPc := s.faultPc
  faultAddr := s.faultAddr
  x := s.x
  I := s.I
  pc := s.pc
  sp := s.sp
  stack := s.stack

/-- The host's `reset` request, in any state (R201, R261): every CORE register takes its reset value, a held `WAIT_KEY`
is abandoned, `FAULTED` is cleared; memory, display, timers and keypad are not touched. Log entry 25. -/
def State.hostReset (s : State) : State :=
  { s with
    x := Vector.replicate 16 0, I := 0, pc := Config.progBase, sp := 0, stack := Vector.replicate 16 0,
    status := .running, faultKind := .none, faultPc := 0, faultAddr := 0 }

end Sys2Proof.Machine
end

