-- ==== Sys2Proof/Machine/Flags.lean ====
section
/-! DEFINITION. The flag computations (spec/42_load_alu.md rules R140, R141, R148 to R152): the only flag results are a
carry out of bit 7, a strict comparison, a bit shifted out, and the collision of `DRAW`. -/

namespace Sys2Proof.Machine

/-- The value written to `x[15]`: 0x00 or 0x01 (R22). -/
def flagByte (b : Bool) : Byte := if b then 1 else 0

/-- `a + b > 255`, the sum taken without a width (R148). -/
def carryOut (a b : Byte) : Bool := decide (a.toNat + b.toNat > 255)

/-- `a > b`, unsigned and strict (R149, R151). -/
def greater (a b : Byte) : Bool := decide (a.toNat > b.toNat)

/-- `a[0]`, the bit a right shift by one moves out (R150). -/
def lowBit (a : Byte) : Bool := a.getLsbD 0

/-- `a[7]`, the bit a left shift by one moves out (R152). -/
def topBit (a : Byte) : Bool := a.getLsbD 7

/-- The write order of a flag-writing instruction: `x[15] <- flag` first, `x[X] <- result` second, both computed from the
operands as they were (R141, D7; log entry 15). -/
def State.setFlagThenReg (s : State) (x : Reg) (flag : Bool) (result : Byte) : State :=
  (s.setReg flagReg (flagByte flag)).setReg x result

end Sys2Proof.Machine
end

