-- ==== Sys2Proof/Machine/Capability.lean ====
section
/-! DEFINITION. The ten operations of the Runtime Capability (spec/50_interfaces.md rules R203 to R213), acting on the
device state of `State`, and what the environment does between two steps (R206 to R208, R214, R216). -/

namespace Sys2Proof.Machine

/-- The display replaced. -/
def State.setDisplay (s : State) (d : Display) : State := { s with display := d }

/-- The pending key-press event replaced. -/
def State.setKeyEvent (s : State) (e : Option (Fin 16)) : State := { s with keyEvent := e }

/-! ### Display -/

/-- `disp[row][col]` (R205). -/
def Display.pixel (d : Display) (row : Fin 32) (col : Fin 64) : Bool := (d[row.val])[col.val]

/-- `disp[row][col] <- v` (R205). -/
def Display.setPixel (d : Display) (row : Fin 32) (col : Fin 64) (v : Bool) : Display :=
  d.set row.val ((d[row.val]).set col.val v)

/-- All pixels 0 (R204). -/
def Display.clear : Display := Vector.replicate 32 (Vector.replicate 64 false)

/-- One sprite bit that is 1 at column `x`, row `y`, each wrapped on its own (R205, D19): a set pixel under it is a
collision, and the pixel is inverted. -/
def blitPixel (acc : Display × Bool) (x y : Nat) : Display × Bool :=
  (acc.1.setPixel (Fin.ofNat 32 y) (Fin.ofNat 64 x) (!acc.1.pixel (Fin.ofNat 32 y) (Fin.ofNat 64 x)),
    acc.2 || acc.1.pixel (Fin.ofNat 32 y) (Fin.ofNat 64 x))

/-- Columns `c`, `c + 1`, … of one sprite row, `n` of them; bit 7 of the row is its leftmost pixel (R205; log entry 19). -/
def blitRow (acc : Display × Bool) (x y : Nat) (row : Byte) (c : Nat) : Nat → Display × Bool
  | 0 => acc
  | n + 1 => blitRow (if row.getLsbD (7 - c) then blitPixel acc (x + c) y else acc) x y row (c + 1) n

/-- The rows of a sprite from row `y` down, eight columns each (R205). -/
def blitRows (acc : Display × Bool) (x y : Nat) : List Byte → Display × Bool
  | [] => acc
  | row :: rows => blitRows (blitRow acc x y row 0 8) x (y + 1) rows

/-- `clear()` (R204). -/
def State.capClear (s : State) : State := s.setDisplay Display.clear

/-- `draw(spriteAddr, rowCount, x, y) -> collided` (R205), given the sprite's rows as CORE has read them (R173). -/
def State.capDraw (s : State) (rows : List Byte) (x y : Byte) : State × Bool :=
  (s.setDisplay (blitRows (s.display, false) x.toNat y.toNat rows).1,
    (blitRows (s.display, false) x.toNat y.toNat rows).2)

/-! ### Random source, keypad, timers, glyphs, BCD -/

/-- `rand() -> byte` (R206). -/
def State.capRand (s : State) : Byte := s.rand

/-- `get_key(logicalKey) -> pressed` (R207): for an index above 15 the answer is unspecified (D17; log entry 6). -/
def State.capGetKey (s : State) (key : Byte) : Bool :=
  if h : key.toNat < Config.nKeys then s.keys[key.toNat] else s.highKey

/-- `wait_key() -> logicalKey` (R208): `none` while no key-press event has been observed; an answer consumes the event. -/
def State.capWaitKey (s : State) : Option (Fin 16 × State) :=
  s.keyEvent.map fun key => (key, s.setKeyEvent none)

/-- `get_delay_timer() -> byte` (R209). -/
def State.capGetDelay (s : State) : Byte := s.delay

/-- `set_delay_timer(v)` (R210). -/
def State.capSetDelay (s : State) (v : Byte) : State := { s with delay := v }

/-- `set_sound_timer(v)` (R211). -/
def State.capSetSound (s : State) (v : Byte) : State := { s with sound := v }

/-- `digit_sprite(digit) -> address` (R212): `DIGIT_ADDR` for 0 to 15; above 15 the answer is unspecified (D17; log
entries 5 and 6). -/
def State.capDigitSprite (s : State) (digit : Byte) : Word :=
  if h : digit.toNat < 16 then BitVec.ofNat 16 (Config.digitAddr ⟨digit.toNat, h⟩).val else s.highDigit

/-- `bcd(value) -> (hundreds, tens, ones)` (R213), computed in place. -/
def bcd (v : Byte) : List Byte :=
  [BitVec.ofNat 8 (v.toNat / 100), BitVec.ofNat 8 (v.toNat / 10 % 10), BitVec.ofNat 8 (v.toNat % 10)]

/-! ### The environment -/

/-- A timer after an elapsed amount: decremented and clamped at zero (R214). -/
def decayed (v : Byte) (amount : Nat) : Byte := BitVec.ofNat 8 (v.toNat - amount)

/-- What the environment does before a step: the timers decay by a free amount (R214), the keys, the pending key-press
event, the next random byte and the two unspecified answers take free values (R206 to R208, R212). No CORE register and
no byte of memory changes (R64). Log entry 3. -/
def State.envMove (s : State) : State :=
  { s with
    delay := decayed s.delay (Config.delayDecay s.tick), sound := decayed s.sound (Config.soundDecay s.tick),
    keys := Config.keysDown s.tick, keyEvent := Config.keyPress s.tick, rand := Config.randByte s.tick,
    highKey := Config.highKeyDown s.tick, highDigit := Config.highDigitAddr s.tick, tick := s.tick + 1 }

end Sys2Proof.Machine
end

