-- ==== Sys2Proof/Machine/Operands.lean ====
section
/-! DEFINITION. The operand forms (spec/30_encoding.md rules R85 to R88, spec/41_control_flow.md rule R120,
spec/43_address_memory.md rule R160). Registers and immediates are used as they are: no value is scaled, masked or
sign-extended (R7, R86). -/

namespace Sys2Proof.Machine

/-- `zext_16(NNN)` (R85): a jump or call target, or the new value of `I`. -/
def zextAddr (nnn : Addr12) : Word := nnn.setWidth 16

/-- `zext_16` of a register value (R124, R162). -/
def zextByte (v : Byte) : Word := v.setWidth 16

/-- `EA = I`, all 16 bits, no offset and no modification (R160). -/
def State.effAddr (s : State) : Word := s.I

/-- The count `SAVE_REGS` and `RESTORE_REGS` receive: `X + 1` (R88). -/
def regCount (x : Reg) : Nat := x.val + 1

/-- `x[0], x[1], …`, the first `n` registers in rising order (R165). -/
def State.firstRegs (s : State) (n : Nat) : List Byte := s.x.toList.take n

/-- `x[0] + NNN` on 16 bits, not reduced (R124, D9). -/
def State.indexedTarget (s : State) (nnn : Addr12) : Word := zextByte (s.reg 0) + zextAddr nnn

end Sys2Proof.Machine
end

