-- ==== Sys2Proof/Machine/AddressMemory.lean ====
section
/-! DEFINITION. The address register and the loads and stores through it (spec/43_address_memory.md). No memory access
changes `I` (R160, D15; log entry 21). -/

namespace Sys2Proof.Machine

/-- `LOAD_ADDR_REG NNN` (R161). -/
def execLoadAddrReg (nnn : Addr12) (s : State) : Result := (s.setI (zextAddr nnn)).finish

/-- `ADD_TO_ADDR xX` (R162): on 16 bits, wrapping at 65536, no flag. -/
def execAddToAddr (x : Reg) (s : State) : Result := (s.setI (s.I + zextByte (s.reg x))).finish

/-- `ADDR_OF_DIGIT xX` (R163). -/
def execAddrOfDigit (x : Reg) (s : State) : Result := (s.setI (s.capDigitSprite (s.reg x))).finish

/-- `STORE_BCD xX` (R164): one request of three bytes. -/
def execStoreBcd (x : Reg) (s : State) : Result :=
  s.withWrite s.effAddr (bcd (s.reg x)) State.finish

/-- `SAVE_REGS xX` (R165). -/
def execSaveRegs (x : Reg) (s : State) : Result :=
  s.withWrite s.effAddr (s.firstRegs (regCount x)) State.finish

/-- `RESTORE_REGS xX` (R166). -/
def execRestoreRegs (x : Reg) (s : State) : Result :=
  s.withRead s.effAddr (regCount x) fun bytes => (s.setRegsFrom 0 bytes).finish

end Sys2Proof.Machine
end

