-- ==== Sys2Proof/Machine/Alu.lean ====
section
/-! DEFINITION. Register loads and the 8-bit ALU (spec/42_load_alu.md). Arithmetic is unsigned and wraps modulo 256
(R140); only the five flag-writing forms touch `x[15]` beside their destination (R22, D30; log entry 21). -/

namespace Sys2Proof.Machine

/-- `LOAD_IMM xX, NN` (R142). -/
def execLoadImm (x : Reg) (nn : Byte) (s : State) : Result := (s.setReg x nn).finish

/-- `ADD_IMM xX, NN` (R143): no carry flag. -/
def execAddImm (x : Reg) (nn : Byte) (s : State) : Result := (s.setReg x (s.reg x + nn)).finish

/-- `MOVE xX, xY` (R144, C9). -/
def execMove (x y : Reg) (s : State) : Result := (s.setReg x (s.reg y)).finish

/-- `OR xX, xY` (R145). -/
def execOr (x y : Reg) (s : State) : Result := (s.setReg x (s.reg x ||| s.reg y)).finish

/-- `AND xX, xY` (R146). -/
def execAnd (x y : Reg) (s : State) : Result := (s.setReg x (s.reg x &&& s.reg y)).finish

/-- `XOR xX, xY` (R147). -/
def execXor (x y : Reg) (s : State) : Result := (s.setReg x (s.reg x ^^^ s.reg y)).finish

/-- `ADD xX, xY` (R148): the flag is the carry out of bit 7. -/
def execAdd (x y : Reg) (s : State) : Result :=
  (s.setFlagThenReg x (carryOut (s.reg x) (s.reg y)) (s.reg x + s.reg y)).finish

/-- `SUB xX, xY` (R149): the flag is the strict comparison `x[X] > x[Y]`. -/
def execSub (x y : Reg) (s : State) : Result :=
  (s.setFlagThenReg x (greater (s.reg x) (s.reg y)) (s.reg x - s.reg y)).finish

/-- `SHR xX` (R150): `x[X]` is shifted in place; `Y` is not used. -/
def execShr (x _y : Reg) (s : State) : Result := (s.setFlagThenReg x (lowBit (s.reg x)) (s.reg x >>> 1)).finish

/-- `SUBN xX, xY` (R151): the subtraction reversed; the destination is still `x[X]`. -/
def execSubn (x y : Reg) (s : State) : Result :=
  (s.setFlagThenReg x (greater (s.reg y) (s.reg x)) (s.reg y - s.reg x)).finish

/-- `SHL xX` (R152): `x[X]` is shifted in place; `Y` is not used. -/
def execShl (x _y : Reg) (s : State) : Result := (s.setFlagThenReg x (topBit (s.reg x)) (s.reg x <<< 1)).finish

end Sys2Proof.Machine
end

