-- ==== Sys2Proof/Machine/CapabilityIo.lean ====
section
/-! DEFINITION. The instructions that call the Runtime Capability for its devices (spec/44_capability_io.md): each makes
exactly one call, with whole register values read before any write (R170, R180). -/

namespace Sys2Proof.Machine

/-- `CLS` (R171). -/
def execCls (s : State) : Result := s.capClear.finish

/-- `RANDOM_MASK xX, NN` (R172). -/
def execRandomMask (x : Reg) (nn : Byte) (s : State) : Result := (s.setReg x (s.capRand &&& nn)).finish

/-- `DRAW xX, xY, N` (R173): the sprite is read, then drawn, then `x[15]` receives the collision. -/
def execDraw (x y : Reg) (n : Nibble) (s : State) : Result :=
  s.withRead s.effAddr n.toNat fun rows =>
    ((s.capDraw rows (s.reg x) (s.reg y)).1.setReg flagReg (flagByte (s.capDraw rows (s.reg x) (s.reg y)).2)).finish

/-- `SKIP_IF_PRESSED xX` (R174): the key index is the register's value. -/
def execSkipIfPressed (x : Reg) (s : State) : Result := s.skipIf (s.capGetKey (s.reg x))

/-- `SKIP_IF_NOT_PRESSED xX` (R175). -/
def execSkipIfNotPressed (x : Reg) (s : State) : Result := s.skipIf (!s.capGetKey (s.reg x))

/-- `GET_DELAY xX` (R176). -/
def execGetDelay (x : Reg) (s : State) : Result := (s.setReg x s.capGetDelay).finish

/-- `WAIT_KEY xX` once the event is there: the key's index goes to `x[X]`; while none is there, nothing changes and `pc`
still addresses the instruction (R111(c), R177). -/
def State.waitKeyOutcome (s : State) (x : Reg) : State :=
  match s.capWaitKey with
  | none => s
  | some (key, s') => (s'.setReg x (BitVec.ofNat 8 key.val)).advance

/-- `WAIT_KEY xX` (R177): a held step is a step of the model that changes nothing (log entry 2). -/
def execWaitKey (x : Reg) (s : State) : Result := .next (s.waitKeyOutcome x)

/-- `SET_DELAY xX` (R178). -/
def execSetDelay (x : Reg) (s : State) : Result := (s.capSetDelay (s.reg x)).finish

/-- `SET_SOUND xX` (R179). -/
def execSetSound (x : Reg) (s : State) : Result := (s.capSetSound (s.reg x)).finish

end Sys2Proof.Machine
end

