-- ==== Sys2Proof/Machine/Control.lean ====
section
/-! DEFINITION. Control transfer (spec/41_control_flow.md): return, jump, call, indexed jump and the four skips. All
targets are absolute and none is checked (R120). -/

namespace Sys2Proof.Machine

/-- `RET` (R121). -/
def execRet (s : State) : Result :=
  match s.pop with
  | none => s.raise .stackUnderflow 0
  | some (target, s') => .next (s'.setPc target)

/-- `JUMP NNN` (R122). -/
def execJump (nnn : Addr12) (s : State) : Result := .next (s.setPc (zextAddr nnn))

/-- `CALL NNN` (R123): the test comes before any write, and the pushed value is `npc`. -/
def execCall (nnn : Addr12) (s : State) : Result :=
  match s.push s.npc with
  | none => s.raise .stackOverflow 0
  | some s' => .next (s'.setPc (zextAddr nnn))

/-- `JUMP_OFFSET NNN` (R124). -/
def execJumpOffset (nnn : Addr12) (s : State) : Result := .next (s.setPc (s.indexedTarget nnn))

/-- `SKIP_EQ_IMM xX, NN` (R125). -/
def execSkipEqImm (x : Reg) (nn : Byte) (s : State) : Result := s.skipIf (s.reg x == nn)

/-- `SKIP_NEQ_IMM xX, NN` (R126). -/
def execSkipNeqImm (x : Reg) (nn : Byte) (s : State) : Result := s.skipIf (s.reg x != nn)

/-- `SKIP_EQ_REG xX, xY` (R127). -/
def execSkipEqReg (x y : Reg) (s : State) : Result := s.skipIf (s.reg x == s.reg y)

/-- `SKIP_NEQ_REG xX, xY` (R128). -/
def execSkipNeqReg (x y : Reg) (s : State) : Result := s.skipIf (s.reg x != s.reg y)

end Sys2Proof.Machine
end

