-- ==== Sys2Proof/Machine/System.lean ====
section
/-! DEFINITION. `SYS` and `UNKNOWN` (spec/40_system.md). -/

namespace Sys2Proof.Machine

/-- `SYS NNN` (R112): a reserved no-op; the address is ignored. -/
def execSys (_nnn : Addr12) (s : State) : Result := s.finish

/-- `UNKNOWN hi lo` (R113): one event on the diagnostic port, and otherwise a no-op. -/
def execUnknown (hi lo : Byte) (s : State) : Result := (s.emitUnknown hi lo).finish

end Sys2Proof.Machine
end

