-- ==== Sys2Proof/Machine/Step.lean ====
section
/-! DEFINITION. One step (spec/40_system.md rules R110, R111), and how a program comes into memory
(spec/70_reset_and_hazards.md rule R264; log entry 24). -/

namespace Sys2Proof.Machine

/-- The step of a RUNNING core (R110): the fetch, which may raise `OutOfBounds(pc0)`, then the instruction. -/
def State.fetchAndRun (s : State) : Result :=
  match s.fetch with
  | none => s.raise .outOfBounds s.pc
  | some (hi, lo) => exec (decode hi lo) s

/-- One `step` request. A FAULTED core executes nothing and nothing changes (R110, R201, R237); a RUNNING core runs one
instruction, the environment having moved before it (log entry 3). -/
def step (s : State) : Host.Outcome State Fault Refusal :=
  match s.status with
  | .faulted => .next s
  | .running => s.envMove.fetchAndRun

/-- `s` with the instruction whose word is `w` (as spec/opcode_table.json numbers its bits) stored at `pc`, in a core that
is RUNNING. Where no instruction can be fetched at `pc` (`pc + 2 > 4096`) memory is left as it is. Log entry 24. -/
def State.withFetchWord (s : State) (nbits w : Nat) : State :=
  { s with
    status := .running
    mem := if s.pc.toNat + Config.ilen > Config.memSize then s.mem
      else s.mem.writeBytes s.pc.toNat [hiByte (BitVec.ofNat 16 (w % 2 ^ nbits)), loByte (BitVec.ofNat 16 (w % 2 ^ nbits))] }

/-- The 16 glyphs stored at the addresses `digit_sprite` answers, digit 0 first (R264(a), R212). -/
def Memory.placeGlyphs (m : Memory) (glyphs : Vector (Vector Byte 5) 16) : Memory :=
  (List.finRange 16).foldl (fun m d => m.writeBytes (Config.digitAddr d).val (glyphs[d.val]).toList) m

/-- Boot (R264): the glyphs are placed, then the program verbatim from 0x200 on, and every other byte keeps what the platform
left there (what memory held before, or `MEM_INIT`); then `reset`. `none` when the program has more than 3584 bytes. Log
entry 24. -/
def State.boot (s : State) (glyphs : Vector (Vector Byte 5) 16) (program : List Byte) : Option State :=
  if program.length > Config.maxProgram then none
  else some (s.setMem ((s.mem.placeGlyphs glyphs).writeBytes Config.progBase.toNat program)).hostReset

end Sys2Proof.Machine
end

