-- ==== Sys2Proof/Safety.lean ====
section
/-! DEFINITION. The terms claims are stated in: what a safe run is, when CORE is parked (spec/70_reset_and_hazards.md rule
R266), the invariant of every reachable state (spec/10_state.md rule R38), and what "unchanged" means for each part of
the state. -/

namespace Sys2Proof.Machine

/-! ### Runs -/

/-- The instruction the next step decodes, if one can be fetched (R110). -/
def State.nextInstr (s : State) : Option Instr := s.fetch.map fun bytes => decode bytes.1 bytes.2

/-- A run of `n` steps from `s` never leaves RUNNING: a faulted state is never a state of a successful run (R237). -/
def State.SafeFor : Nat → State → Prop
  | 0, s => s.status = .running
  | n + 1, s => s.status = .running ∧ ∀ t, step s = .next t → State.SafeFor n t

/-- None of the next `n` steps from `s` decodes an instruction that satisfies `p`. -/
def State.Avoids (p : Instr → Prop) : Nat → State → Prop
  | 0, _ => True
  | n + 1, s => (∀ i, s.nextInstr = some i → ¬p i) ∧ ∀ t, step s = .next t → State.Avoids p n t

/-- CORE is parked at `a`: `pc = a`, `STATUS = RUNNING`, and the word at `a` is the `JUMP` to `a` (R266). -/
def State.Parked (s : State) (a : Addr12) : Prop :=
  s.pc = zextAddr a ∧ s.status = .running ∧ s.nextInstr = some (.jump a)

/-! ### The invariant -/

/-- What holds in every reachable state: the values of R38 (a register, `I` and `sp` are in range by their types), the
memory in canonical form, and a fault record that is zero while RUNNING and describes the fault at `pc` while FAULTED
(R33, R230, R235). -/
structure State.Inv (s : State) : Prop where
  mem_wf : s.mem.wf = true
  pc_le : s.pc.toNat ≤ 0x10FE
  live_slots : ∀ k : Fin 16, k.val < s.sp.val → 2 ≤ (s.stack[k.val]).toNat ∧ (s.stack[k.val]).toNat ≤ 4096
  running_record : s.status = .running → s.faultKind = .none ∧ s.faultPc = 0 ∧ s.faultAddr = 0
  faulted_record : s.status = .faulted → s.faultKind ≠ .none ∧ s.faultPc = s.pc
  stack_fault_addr : s.faultKind ≠ .outOfBounds → s.faultAddr = 0

/-! ### What an instruction may write -/

/-- The registers an instruction writes as its ordinary destination (R21, R22). -/
def destRegs : Instr → Reg → Prop
  | .loadImm x _, r => r = x
  | .addImm x _, r => r = x
  | .move x _, r => r = x
  | .or x _, r => r = x
  | .and x _, r => r = x
  | .xor x _, r => r = x
  | .add x _, r => r = x
  | .sub x _, r => r = x
  | .shr x _, r => r = x
  | .subn x _, r => r = x
  | .shl x _, r => r = x
  | .randomMask x _, r => r = x
  | .getDelay x, r => r = x
  | .waitKey x, r => r = x
  | .restoreRegs x, r => r ≤ x
  | .cls, _ => False
  | .ret, _ => False
  | .sys _, _ => False
  | .jump _, _ => False
  | .call _, _ => False
  | .skipEqImm _ _, _ => False
  | .skipNeqImm _ _, _ => False
  | .skipEqReg _ _, _ => False
  | .skipNeqReg _ _, _ => False
  | .loadAddrReg _, _ => False
  | .jumpOffset _, _ => False
  | .draw _ _ _, _ => False
  | .skipIfPressed _, _ => False
  | .skipIfNotPressed _, _ => False
  | .setDelay _, _ => False
  | .setSound _, _ => False
  | .addToAddr _, _ => False
  | .addrOfDigit _, _ => False
  | .storeBcd _, _ => False
  | .saveRegs _, _ => False
  | .unknown _ _, _ => False

/-- The six instructions that write `x[15]` as a side effect (R22). -/
def writesFlag (i : Instr) : Prop :=
  (∃ x y, i = .add x y) ∨ (∃ x y, i = .sub x y) ∨ (∃ x y, i = .shr x y) ∨ (∃ x y, i = .subn x y) ∨
  (∃ x y, i = .shl x y) ∨ (∃ x y n, i = .draw x y n)

/-- The number of bytes an instruction stores at `I` when it completes (R57, R167). -/
def storedBytes : Instr → Nat
  | .storeBcd _ => 3
  | .saveRegs x => x.val + 1
  | _ => 0

/-! ### Frames: which parts of two states agree -/

/-- Every general register but those of `rs` agrees. -/
def SameRegsBut (rs : List Reg) (s t : State) : Prop := ∀ r : Reg, r ∉ rs → t.reg r = s.reg r

/-- The address register agrees. -/
def SameAddrReg (s t : State) : Prop := t.I = s.I

/-- The stack pointer and all sixteen slots agree. -/
def SameStack (s t : State) : Prop := t.sp = s.sp ∧ ∀ k : Fin 16, t.stack[k.val] = s.stack[k.val]

/-- `STATUS` and the fault record agree. -/
def SameStatus (s t : State) : Prop :=
  t.status = s.status ∧ t.faultKind = s.faultKind ∧ t.faultPc = s.faultPc ∧ t.faultAddr = s.faultAddr

/-- Every byte of memory reads the same. -/
def SameMem (s t : State) : Prop := ∀ a : Nat, t.mem.read a = s.mem.read a

/-- Every byte of memory outside the `n` bytes at `base` reads the same. -/
def SameMemOutside (base n : Nat) (s t : State) : Prop := ∀ a : Nat, a < base ∨ base + n ≤ a → t.mem.read a = s.mem.read a

/-- Every pixel of the display agrees. -/
def SameDisplay (s t : State) : Prop := ∀ (row : Fin 32) (col : Fin 64), t.display.pixel row col = s.display.pixel row col

/-- Both timers agree. -/
def SameTimers (s t : State) : Prop := t.delay = s.delay ∧ t.sound = s.sound

/-- The key states, the pending key-press event, the random source, the two unspecified answers and the environment's
counter agree: what only the environment changes, and `wait_key` by consuming an event. -/
def SameInputs (s t : State) : Prop :=
  t.keys = s.keys ∧ t.keyEvent = s.keyEvent ∧ t.rand = s.rand ∧ t.highKey = s.highKey ∧ t.highDigit = s.highDigit ∧
  t.tick = s.tick

/-- The events of the diagnostic port agree. -/
def SameDiag (s t : State) : Prop := t.diag = s.diag

/-- Everything outside CORE agrees: memory, devices, inputs, diagnostic port. -/
def SameOutside (s t : State) : Prop :=
  SameMem s t ∧ SameDisplay s t ∧ SameTimers s t ∧ SameInputs s t ∧ SameDiag s t

/-- Only general registers of `rs` and `pc` may differ. -/
def OnlyRegsAndPc (rs : List Reg) (s t : State) : Prop :=
  SameRegsBut rs s t ∧ SameAddrReg s t ∧ SameStack s t ∧ SameStatus s t ∧ SameOutside s t

/-- Only `I` and `pc` may differ. -/
def OnlyAddrRegAndPc (s t : State) : Prop :=
  SameRegsBut [] s t ∧ SameStack s t ∧ SameStatus s t ∧ SameOutside s t

/-- Only `sp`, the stack slots and `pc` may differ. -/
def OnlyStackAndPc (s t : State) : Prop :=
  SameRegsBut [] s t ∧ SameAddrReg s t ∧ SameStatus s t ∧ SameOutside s t

/-- Only the `n` bytes of memory at `base` and `pc` may differ. -/
def OnlyMemAndPc (base n : Nat) (s t : State) : Prop :=
  SameRegsBut [] s t ∧ SameAddrReg s t ∧ SameStack s t ∧ SameStatus s t ∧ SameMemOutside base n s t ∧ SameDisplay s t ∧
  SameTimers s t ∧ SameInputs s t ∧ SameDiag s t

/-- The fault `kind` has been taken and nothing else has happened (R235, R237): `FAULT_PC` is the address of the
instruction, where `pc` still is. -/
def FaultTaken (kind : FaultKind) (addr : Word) (s t : State) : Prop :=
  t.status = .faulted ∧ t.faultKind = kind ∧ t.faultPc = s.pc ∧ t.faultAddr = addr ∧ t.pc = s.pc ∧
  SameRegsBut [] s t ∧ SameAddrReg s t ∧ SameStack s t ∧ SameOutside s t

/-- The sprite of `n` rows at `I` has a 1 bit over the pixel `(row, col)` when it is drawn at column `px`, row `py`: bit
`7 - c` of the byte at `I + r`, each coordinate wrapped on its own (R205). -/
def SpriteCovers (s : State) (px py : Byte) (n : Nat) (row : Fin 32) (col : Fin 64) : Prop :=
  ∃ r c : Nat, r < n ∧ c < 8 ∧ (s.mem.read (s.I.toNat + r)).getLsbD (7 - c) = true ∧
    row.val = (py.toNat + r) % 32 ∧ col.val = (px.toNat + c) % 64

/-- Two states that agree in all but the values of dead stack slots, those at index `sp` and above (R30). -/
def SameButDeadSlots (s t : State) : Prop :=
  t = { s with stack := t.stack } ∧ ∀ k : Fin 16, k.val < s.sp.val → t.stack[k.val] = s.stack[k.val]

/-! ### Functions the statements compare the machine with -/

/-- The document's expressions for the fields (R82): `hi & 0xF`. -/
def docX (hi : Byte) : Reg := Fin.ofNat 16 (hi &&& 0xF).toNat

/-- `lo >> 4` (R82). -/
def docY (lo : Byte) : Reg := Fin.ofNat 16 (lo >>> 4).toNat

/-- `lo & 0xF` (R82). -/
def docN (lo : Byte) : Nibble := (lo &&& 0xF).setWidth 4

/-- `(hi & 0xF) ++ lo` (R85). -/
def docNNN (hi lo : Byte) : Addr12 := (hi &&& 0xF).setWidth 4 ++ lo

/-- The fault an instruction must raise, with its `FAULT_ADDR`, by the table of R230. -/
def dueFault : Instr → State → Option (FaultKind × Word)
  | .ret, s => if s.sp.val = 0 then some (.stackUnderflow, 0) else none
  | .call _, s => if s.sp.val = 16 then some (.stackOverflow, 0) else none
  | .draw _ _ n, s => if s.I.toNat + n.toNat > 4096 then some (.outOfBounds, s.I) else none
  | .storeBcd _, s => if s.I.toNat + 3 > 4096 then some (.outOfBounds, s.I) else none
  | .saveRegs x, s => if s.I.toNat + (x.val + 1) > 4096 then some (.outOfBounds, s.I) else none
  | .restoreRegs x, s => if s.I.toNat + (x.val + 1) > 4096 then some (.outOfBounds, s.I) else none
  | _, _ => none

/-- `pc` after a completed step, by the table of R129. -/
def tablePc : Instr → State → Word
  | .ret, s => s.stack[s.sp.val - 1]'(by have := s.sp.isLt; omega)
  | .jump nnn, _ => BitVec.ofNat 16 nnn.toNat
  | .call nnn, _ => BitVec.ofNat 16 nnn.toNat
  | .jumpOffset nnn, s => BitVec.ofNat 16 ((s.reg 0).toNat + nnn.toNat)
  | .skipEqImm x nn, s => if s.reg x = nn then s.pc + 4 else s.pc + 2
  | .skipNeqImm x nn, s => if s.reg x ≠ nn then s.pc + 4 else s.pc + 2
  | .skipEqReg x y, s => if s.reg x = s.reg y then s.pc + 4 else s.pc + 2
  | .skipNeqReg x y, s => if s.reg x ≠ s.reg y then s.pc + 4 else s.pc + 2
  | .skipIfPressed x, s => if s.capGetKey (s.reg x) = true then s.pc + 4 else s.pc + 2
  | .skipIfNotPressed x, s => if s.capGetKey (s.reg x) = false then s.pc + 4 else s.pc + 2
  | .waitKey _, s => if s.keyEvent = none then s.pc else s.pc + 2
  | _, s => s.pc + 2

/-- The stack pointer after a completed step, by the table of R129. -/
def tableSp : Instr → State → Nat
  | .ret, s => s.sp.val - 1
  | .call _, s => s.sp.val + 1
  | _, s => s.sp.val

/-- `CALL` to each target in turn, stopping at a state that is not RUNNING. -/
def callAll : List Addr12 → State → Result
  | [], s => .next s
  | nnn :: rest, s =>
    match exec (.call nnn) s with
    | .next t => if t.status = .running then callAll rest t else .next t
    | r => r

end Sys2Proof.Machine
end

