-- ==== Sys2Proof/Certificates/Slice0/Obligations.lean ====
section
/-! DEFINITION. The statements for the provers. Each docstring names the rules of spec/ the statement formalises; where a
clause rests on a choice of the model it names the log entry. The frames (`OnlyRegsAndPc` and the like) and `FaultTaken`
are defined in Sys2Proof/Safety.lean. -/

open Sys2Proof Sys2Proof.Machine

/-! ### Memory requests -/

/-- R53: a read of `n` bytes at `addr` is refused exactly when the exact sum `addr + n` exceeds 4096, and otherwise gives
the bytes at `addr`, `addr + 1`, … in order. -/
def Obligations.MemReadReturnsBytesOrIsRefused : Prop :=
  ∀ (s : State) (addr : Word) (n : Nat),
    (addr.toNat + n > 4096 → s.memRead addr n = none) ∧
    (addr.toNat + n ≤ 4096 → ∃ b, s.memRead addr n = some b ∧ b.length = n ∧
      ∀ (k : Nat) (h : k < b.length), b[k] = s.mem.read (addr.toNat + k))

/-- R54: a write whose range does not lie inside memory stores nothing, not even the bytes that would fit (the spec's own
decision D16, log entry 18); any other stores every byte at its address and changes nothing else. -/
def Obligations.MemWriteStoresWholeRangeOrNothing : Prop :=
  ∀ (s : State) (addr : Word) (v : List Byte),
    (addr.toNat + v.length > 4096 → s.memWrite addr v = none) ∧
    (addr.toNat + v.length ≤ 4096 → ∃ t, s.memWrite addr v = some t ∧
      (∀ (k : Nat) (h : k < v.length), t.mem.read (addr.toNat + k) = v[k]) ∧
      SameMemOutside addr.toNat v.length s t ∧ t = { s with mem := t.mem })

/-! ### Encoding -/

/-- Decoding the word of a well-formed instruction gives the instruction back, at every value of every operand. -/
def Obligations.DecodeOfEncodeIsIdentity : Prop :=
  ∀ i : Instr, i.WellFormed → decode (hiByte (encode i)) (loByte (encode i)) = i

/-- Encoding what a word decodes to gives the word back, but for the ignored low nibble of groups 5 and 9 (R93), which the
encoder writes as 0. -/
def Obligations.EncodeOfDecodeIsIdentity : Prop :=
  ∀ hi lo : Byte, (hi.toNat / 16 = 5 ∨ hi.toNat / 16 = 9 → lo.toNat % 16 = 0) →
    encode (decode hi lo) = instrWord hi lo

/-- Every pair of bytes decodes to an instruction of the hardware (R89: the decoder is total and never fails). -/
def Obligations.DecodeIsAlwaysWellFormed : Prop := ∀ hi lo : Byte, (decode hi lo).WellFormed

/-- The UNKNOWN space (section 6 of 30_encoding.md): exactly the words that match no pattern, with their raw bytes. -/
def Obligations.UnknownSpaceIsExact : Prop :=
  ∀ hi lo : Byte,
    ((∃ h l, decode hi lo = .unknown h l) ↔
      (hi >>> 4 = 0x8 ∧ (lo &&& 0xF = 0x8 ∨ lo &&& 0xF = 0x9 ∨ lo &&& 0xF = 0xA ∨ lo &&& 0xF = 0xB ∨
        lo &&& 0xF = 0xC ∨ lo &&& 0xF = 0xD ∨ lo &&& 0xF = 0xF)) ∨
      (hi >>> 4 = 0xE ∧ lo ≠ 0x9E ∧ lo ≠ 0xA1) ∨
      (hi >>> 4 = 0xF ∧ lo ≠ 0x07 ∧ lo ≠ 0x0A ∧ lo ≠ 0x15 ∧ lo ≠ 0x18 ∧ lo ≠ 0x1E ∧ lo ≠ 0x29 ∧ lo ≠ 0x33 ∧
        lo ≠ 0x55 ∧ lo ≠ 0x65)) ∧
    ∀ h l, decode hi lo = .unknown h l → h = hi ∧ l = lo

/-- R90, R91, R92, R95, R96: the words of groups 0 to 4, 6, 7 and A to E by the masks of their tables, with the document's
expressions for the fields. -/
def Obligations.DecodeByMaskInGroupsTheDocumentGives : Prop :=
  ∀ hi lo : Byte,
    (hi ++ lo = 0x00E0#16 → decode hi lo = .cls) ∧
    (hi ++ lo = 0x00EE#16 → decode hi lo = .ret) ∧
    ((hi ++ lo) &&& 0xF000#16 = 0x0000 → hi ++ lo ≠ 0x00E0#16 → hi ++ lo ≠ 0x00EE#16 →
      decode hi lo = .sys (docNNN hi lo)) ∧
    ((hi ++ lo) &&& 0xF000#16 = 0x1000 → decode hi lo = .jump (docNNN hi lo)) ∧
    ((hi ++ lo) &&& 0xF000#16 = 0x2000 → decode hi lo = .call (docNNN hi lo)) ∧
    ((hi ++ lo) &&& 0xF000#16 = 0x3000 → decode hi lo = .skipEqImm (docX hi) lo) ∧
    ((hi ++ lo) &&& 0xF000#16 = 0x4000 → decode hi lo = .skipNeqImm (docX hi) lo) ∧
    ((hi ++ lo) &&& 0xF000#16 = 0x6000 → decode hi lo = .loadImm (docX hi) lo) ∧
    ((hi ++ lo) &&& 0xF000#16 = 0x7000 → decode hi lo = .addImm (docX hi) lo) ∧
    ((hi ++ lo) &&& 0xF000#16 = 0xA000 → decode hi lo = .loadAddrReg (docNNN hi lo)) ∧
    ((hi ++ lo) &&& 0xF000#16 = 0xB000 → decode hi lo = .jumpOffset (docNNN hi lo)) ∧
    ((hi ++ lo) &&& 0xF000#16 = 0xC000 → decode hi lo = .randomMask (docX hi) lo) ∧
    ((hi ++ lo) &&& 0xF000#16 = 0xD000 → decode hi lo = .draw (docX hi) (docY lo) (docN lo)) ∧
    ((hi ++ lo) &&& 0xF0FF#16 = 0xE09E → decode hi lo = .skipIfPressed (docX hi)) ∧
    ((hi ++ lo) &&& 0xF0FF#16 = 0xE0A1 → decode hi lo = .skipIfNotPressed (docX hi)) ∧
    ((hi ++ lo) &&& 0xF000#16 = 0xE000 → lo ≠ 0x9E → lo ≠ 0xA1 → decode hi lo = .unknown hi lo)

/-- R93, R94: the words of groups 5, 9 and 8 by their masks. That the low nibble of groups 5 and 9 is ignored is the spec's
own decision D13 (log entry 16); the function values of group 8 are its decision D14 (log entry 13). -/
def Obligations.DecodeByMaskInGroups5And8And9 : Prop :=
  ∀ hi lo : Byte,
    ((hi ++ lo) &&& 0xF000#16 = 0x5000 → decode hi lo = .skipEqReg (docX hi) (docY lo)) ∧
    ((hi ++ lo) &&& 0xF000#16 = 0x9000 → decode hi lo = .skipNeqReg (docX hi) (docY lo)) ∧
    ((hi ++ lo) &&& 0xF00F#16 = 0x8000 → decode hi lo = .move (docX hi) (docY lo)) ∧
    ((hi ++ lo) &&& 0xF00F#16 = 0x8001 → decode hi lo = .or (docX hi) (docY lo)) ∧
    ((hi ++ lo) &&& 0xF00F#16 = 0x8002 → decode hi lo = .and (docX hi) (docY lo)) ∧
    ((hi ++ lo) &&& 0xF00F#16 = 0x8003 → decode hi lo = .xor (docX hi) (docY lo)) ∧
    ((hi ++ lo) &&& 0xF00F#16 = 0x8004 → decode hi lo = .add (docX hi) (docY lo)) ∧
    ((hi ++ lo) &&& 0xF00F#16 = 0x8005 → decode hi lo = .sub (docX hi) (docY lo)) ∧
    ((hi ++ lo) &&& 0xF00F#16 = 0x8006 → decode hi lo = .shr (docX hi) (docY lo)) ∧
    ((hi ++ lo) &&& 0xF00F#16 = 0x8007 → decode hi lo = .subn (docX hi) (docY lo)) ∧
    ((hi ++ lo) &&& 0xF00F#16 = 0x800E → decode hi lo = .shl (docX hi) (docY lo)) ∧
    ((hi ++ lo) &&& 0xF000#16 = 0x8000 → lo &&& 0xF = 0x8 ∨ lo &&& 0xF = 0x9 ∨ lo &&& 0xF = 0xA ∨ lo &&& 0xF = 0xB ∨
      lo &&& 0xF = 0xC ∨ lo &&& 0xF = 0xD ∨ lo &&& 0xF = 0xF → decode hi lo = .unknown hi lo)

/-- R97: the words of group F by their masks; the function values are the spec's own decision D14 (log entry 13). -/
def Obligations.DecodeByMaskInGroupF : Prop :=
  ∀ hi lo : Byte,
    ((hi ++ lo) &&& 0xF0FF#16 = 0xF007 → decode hi lo = .getDelay (docX hi)) ∧
    ((hi ++ lo) &&& 0xF0FF#16 = 0xF00A → decode hi lo = .waitKey (docX hi)) ∧
    ((hi ++ lo) &&& 0xF0FF#16 = 0xF015 → decode hi lo = .setDelay (docX hi)) ∧
    ((hi ++ lo) &&& 0xF0FF#16 = 0xF018 → decode hi lo = .setSound (docX hi)) ∧
    ((hi ++ lo) &&& 0xF0FF#16 = 0xF01E → decode hi lo = .addToAddr (docX hi)) ∧
    ((hi ++ lo) &&& 0xF0FF#16 = 0xF029 → decode hi lo = .addrOfDigit (docX hi)) ∧
    ((hi ++ lo) &&& 0xF0FF#16 = 0xF033 → decode hi lo = .storeBcd (docX hi)) ∧
    ((hi ++ lo) &&& 0xF0FF#16 = 0xF055 → decode hi lo = .saveRegs (docX hi) ∧ regCount (docX hi) = (docX hi).val + 1) ∧
    ((hi ++ lo) &&& 0xF0FF#16 = 0xF065 → decode hi lo = .restoreRegs (docX hi) ∧
      regCount (docX hi) = (docX hi).val + 1) ∧
    ((hi ++ lo) &&& 0xF000#16 = 0xF000 → lo ≠ 0x07 → lo ≠ 0x0A → lo ≠ 0x15 → lo ≠ 0x18 → lo ≠ 0x1E → lo ≠ 0x29 →
      lo ≠ 0x33 → lo ≠ 0x55 → lo ≠ 0x65 → decode hi lo = .unknown hi lo)

/-- A word of each format, written out from the patterns, decodes to the instruction it stands for (R104; vectors of
95_test_vectors.md section 2). The function values in `8125`, `F255` and `8018` are the spec's own decision D14 (log entry 13,
PRESUMED), the ignored low nibble of `5127` its decision D13 (log entry 16, DEDUCED). -/
def Obligations.WordsWrittenOutDecode : Prop :=
  decode 0x00 0xE0 = .cls ∧ decode 0x22 0x10 = .call 0x210 ∧ decode 0x3A 0x07 = .skipEqImm 10 0x07 ∧
  decode 0x51 0x27 = .skipEqReg 1 2 ∧ decode 0x81 0x25 = .sub 1 2 ∧ decode 0xD0 0x15 = .draw 0 1 5 ∧
  decode 0xE3 0xA1 = .skipIfNotPressed 3 ∧ decode 0xF2 0x55 = .saveRegs 2 ∧ decode 0x80 0x18 = .unknown 0x80 0x18

/-! ### The step, faults, reset -/

/-- One step: a RUNNING core at whose `pc` two bytes can be fetched runs the instruction they decode to; where they cannot be
fetched it takes `OutOfBounds(pc)` and nothing else happens; a FAULTED core does nothing. Choices in it: the byte at `pc` is the
high byte (the spec's own decision D10, log entry 14, DEDUCED); a fault keeps `pc` (its decision D6, log entry 18, DEDUCED); the
environment's move before the step, `envMove` (log entry 3, DESIGN CHOICE); a fault is a next state, and so is the step of a
FAULTED core (log entry 1, DESIGN CHOICE). -/
def Obligations.StepRunsTheDecodedInstruction : Prop :=
  ∀ s : State,
    (s.status = .running → s.pc.toNat + 2 ≤ 4096 →
      step s = exec (decode (s.mem.read s.pc.toNat) (s.mem.read (s.pc.toNat + 1))) s.envMove) ∧
    (s.status = .running → s.pc.toNat + 2 > 4096 → ∃ t, step s = .next t ∧ FaultTaken .outOfBounds s.pc s.envMove t) ∧
    (s.status = .faulted → step s = .next s)

/-- What the environment does between two steps (log entry 3): no CORE register, no byte of memory, no pixel and no
diagnostic event changes, and neither timer rises (R64, R214, R216). -/
def Obligations.EnvironmentLeavesCoreAndMemoryAlone : Prop :=
  ∀ s : State,
    SameRegsBut [] s s.envMove ∧ SameAddrReg s s.envMove ∧ s.envMove.pc = s.pc ∧ SameStack s s.envMove ∧
    SameStatus s s.envMove ∧ SameMem s s.envMove ∧ SameDisplay s s.envMove ∧ SameDiag s s.envMove ∧
    s.envMove.delay.toNat ≤ s.delay.toNat ∧ s.envMove.sound.toNat ≤ s.sound.toNat

/-- R235: when a step of a RUNNING core faults, the fault record and `STATUS` are all that changes; `pc` still holds the
address of the faulting instruction, which is the spec's own decision D6 (log entry 18). (`fetchAndRun` is the step without
the environment's move.) -/
def Obligations.FaultsCommitNothing : Prop :=
  ∀ s t : State, s.status = .running → s.fetchAndRun = .next t → t.status = .faulted →
    FaultTaken t.faultKind t.faultAddr s t

/-- R230, R231, R233, R234, R236: a step faults exactly under the conditions of the table, with the kind and address it
gives: first the fetch, and only then the one condition of the instruction; no other instruction faults, `UNKNOWN`
included. The codes of the kinds are the spec's own decision D4, what the record and `pc` hold its decisions D3 and D6 (log
entries 1 and 18). -/
def Obligations.FaultConditionsAreExact : Prop :=
  (∀ s : State, s.status = .running →
    (s.pc.toNat + 2 > 4096 → ∃ t, s.fetchAndRun = .next t ∧ FaultTaken .outOfBounds s.pc s t) ∧
    (s.pc.toNat + 2 ≤ 4096 → ∃ i, s.nextInstr = some i ∧
      (∀ k a, dueFault i s = some (k, a) → ∃ t, s.fetchAndRun = .next t ∧ FaultTaken k a s t) ∧
      (dueFault i s = none → ∃ t, s.fetchAndRun = .next t ∧ SameStatus s t))) ∧
  FaultKind.none.code = 0 ∧ FaultKind.outOfBounds.code = 1 ∧ FaultKind.stackOverflow.code = 2 ∧
  FaultKind.stackUnderflow.code = 3

/-- A FAULTED core stays as it is through any number of step requests, its fault record included, and the host's reset
leaves the state (60_exceptions.md section 2). That FAULTED is sticky is the spec's own decision D3; that its step is a step of
the model is log entry 1. -/
def Obligations.FaultedUntilReset : Prop :=
  ∀ s : State, s.status = .faulted → (∀ n : Nat, core.run n s = .next s) ∧ s.hostReset.status = .running

/-- Every step request is answered with a state: nothing stops this machine (a fault and a held `WAIT_KEY` are states,
log entries 1 and 2). -/
def Obligations.EveryStepAnswersAState : Prop := ∀ s : State, ∃ t, step s = .next t

/-- R261: `reset`, in any state, writes every CORE register to its reset value (the one `State.reset` holds), clears
`FAULTED`, and touches neither the memory nor a device; the first fetch after it is at 0x0200. That the diagnostic events are
kept in State and survive `reset` is the model's choice (log entry 22, DESIGN CHOICE). -/
def Obligations.HostResetWritesCoreOnly : Prop :=
  ∀ s : State,
    (∀ r : Reg, s.hostReset.reg r = State.reset.reg r) ∧ s.hostReset.I = State.reset.I ∧
    s.hostReset.sp = State.reset.sp ∧ (∀ k : Fin 16, s.hostReset.stack[k.val] = State.reset.stack[k.val]) ∧
    SameStatus State.reset s.hostReset ∧ s.hostReset.status = .running ∧ SameOutside s s.hostReset ∧
    s.hostReset.pc = 0x200 ∧ s.hostReset.fetch = some (s.mem.read 0x200, s.mem.read 0x201)

/-- R36: the reset values of the table. Those of `x`, `I` and the stack are the spec's own decision D5, those of `STATUS`
and the record its decision D3, that of `sp` its inference (log entry 11); memory holds the open parameter `MEM_INIT` (its
decision D27, log entry 4). -/
def Obligations.ResetValues : Prop :=
  (∀ r : Reg, State.reset.reg r = 0x00) ∧ State.reset.I = 0x0000 ∧ State.reset.pc = 0x0200 ∧ State.reset.sp = 0 ∧
  (∀ k : Fin 16, State.reset.stack[k.val] = 0x0000) ∧ State.reset.status = .running ∧
  State.reset.faultKind.code = 0 ∧ State.reset.faultPc = 0 ∧ State.reset.faultAddr = 0 ∧
  ∀ a : Nat, State.reset.mem.read a = Config.memInit a

/-- R264, with the spec's own decision D27 (log entries 4 and 24): booting places the program, of at most 3584 bytes, verbatim
from 0x200 on, and each glyph at its `DIGIT_ADDR`, byte by byte unless an overlapping glyph has another byte there; every byte neither covers keeps what it held; nothing
but memory and what `reset` writes changes. -/
def Obligations.BootPlacesTheImage : Prop :=
  ∀ (s : State) (glyphs : Vector (Vector Byte 5) 16) (program : List Byte),
    (program.length > 3584 → s.boot glyphs program = none) ∧
    (program.length ≤ 3584 → ∃ t, s.boot glyphs program = some t ∧ t = { s.hostReset with mem := t.mem } ∧
      (∀ (k : Nat) (h : k < program.length), t.mem.read (0x200 + k) = program[k]) ∧
      (∀ (d : Fin 16) (k : Fin 5),
        (∀ (e : Fin 16) (j : Fin 5), (Config.digitAddr e).val + j.val = (Config.digitAddr d).val + k.val →
          (glyphs[e.val])[j.val] = (glyphs[d.val])[k.val]) →
        t.mem.read ((Config.digitAddr d).val + k.val) = (glyphs[d.val])[k.val]) ∧
      ∀ a : Nat, a < 0x200 ∨ 0x200 + program.length ≤ a →
        (∀ d, a < (Config.digitAddr d).val ∨ (Config.digitAddr d).val + 5 ≤ a) → t.mem.read a = s.mem.read a)

/-- R217, R244: when a step of a RUNNING core faults, the host reads on the status port the fault record, with the address of
the instruction, beside the registers, `I`, `pc`, `sp` and the stack as the step found them; after `reset` it reads the reset
values. The record and the unchanged `pc` are the spec's own decisions D3 and D6 (log entries 1 and 18); that the port is a
function beside `step` is log entry 25. -/
def Obligations.StatusPortReportsTheFault : Prop :=
  (∀ s t : State, s.status = .running → s.fetchAndRun = .next t → t.status = .faulted →
    t.faultKind ≠ .none ∧ t.statusPort =
      { s.statusPort with
        status := .faulted, faultKind := t.faultKind, faultPc := s.pc, faultAddr := t.faultAddr }) ∧
  ∀ s : State, s.hostReset.statusPort = State.reset.statusPort

/-- The invariant holds right after reset, and after the host's reset or boot of any state whose memory is in canonical form
(the form is the model's, log entry 4). -/
def Obligations.InvariantHoldsAfterReset : Prop :=
  State.reset.Inv ∧ (∀ s : State, s.mem.wf = true → s.hostReset.Inv) ∧
  ∀ (s t : State) (glyphs : Vector (Vector Byte 5) 16) (program : List Byte), s.mem.wf = true →
    s.boot glyphs program = some t → t.Inv

/-- From every state that meets the invariant, a step gives a state that meets it: `pc` stays at most 0x10FE, every live
stack slot stays in 2 to 4096, memory stays in canonical form, the fault record stays as R33, R230 and R235 say (the spec's own decisions D3, D4, D6). The form of memory is the model's (log
entry 4). -/
def Obligations.InvariantIsKeptByEveryStep : Prop := ∀ s t : State, s.Inv → step s = .next t → t.Inv

/-! ### Whole-machine rules -/

/-- R129, which the spec marks as derived: the effect of every instruction on `pc` and on the stack pointer; a faulting step
leaves both, a held one leaves `pc`. -/
def Obligations.ProgramCounterAfterEveryInstruction : Prop :=
  ∀ (i : Instr) (s t : State), s.status = .running → exec i s = .next t →
    (t.status = .faulted → t.pc = s.pc ∧ t.sp = s.sp) ∧
    (t.status = .running → t.pc = tablePc i s ∧ t.sp.val = tableSp i s)

/-- Section 1 of 10_state.md: an instruction writes no general register but its destinations and, for the six
flag-writing ones, `x[15]`; the flag they leave is 0 or 1 unless register 15 is their own destination. That every other
instruction leaves `x[15]` alone is the spec's own decision D30 (log entry 21, DEDUCED). -/
def Obligations.OnlyDestinationsAndTheFlagChange : Prop :=
  ∀ (i : Instr) (s t : State), exec i s = .next t →
    (∀ r : Reg, ¬destRegs i r → (r = 15 → ¬writesFlag i) → t.reg r = s.reg r) ∧
    (s.status = .running → t.status = .running → writesFlag i → ¬destRegs i 15 → t.reg 15 = 0 ∨ t.reg 15 = 1)

/-- Section 2 of 10_state.md: `I` is written by `LOAD_ADDR_REG`, `ADD_TO_ADDR` and `ADDR_OF_DIGIT` and by nothing else,
the memory instructions included (the spec's own decision D15, log entry 21). -/
def Obligations.OnlyThreeInstructionsWriteI : Prop :=
  ∀ (i : Instr) (s t : State), exec i s = .next t → (∀ nnn, i ≠ .loadAddrReg nnn) → (∀ x, i ≠ .addToAddr x) →
    (∀ x, i ≠ .addrOfDigit x) → t.I = s.I

/-- R30 (which the spec marks as derived), R31: only `CALL` writes a stack slot and only `CALL` and `RET` move `sp`; `RET`
does not clear the slot it pops; every other instruction runs the same whatever `sp` and the slots hold, and `CALL` the same
whatever the slots hold; and nothing in a run depends on a dead slot. -/
def Obligations.StackIsReachedOnlyByCallAndRet : Prop :=
  (∀ (i : Instr) (s t : State), exec i s = .next t → (∀ nnn, i ≠ .call nnn) →
    (∀ k : Fin 16, t.stack[k.val] = s.stack[k.val]) ∧ (i ≠ .ret → t.sp = s.sp)) ∧
  (∀ (i : Instr) (s t : State) (sp : Fin 17) (stack : Vector Word 16), exec i s = .next t → (∀ nnn, i ≠ .call nnn) →
    i ≠ .ret → exec i (s.setCallStack sp stack) = .next (t.setCallStack sp stack)) ∧
  (∀ (nnn : Addr12) (s t : State) (stack : Vector Word 16), exec (.call nnn) s = .next t →
    ∃ t', exec (.call nnn) (s.setCallStack s.sp stack) = .next t' ∧ t' = t.setCallStack t.sp t'.stack) ∧
  ∀ s t s' : State, SameButDeadSlots s t → step s = .next s' → ∃ t', step t = .next t' ∧ SameButDeadSlots s' t'

/-- Section 4 of 43_address_memory.md (R167) and R57: no instruction changes a byte of memory but `STORE_BCD` and `SAVE_REGS`, and
these only the bytes at `I` that they store; a step that faults changes none; and an instruction that is none of the four
that touch memory runs the same whatever memory holds. -/
def Obligations.MemoryIsReachedOnlyAtI : Prop :=
  (∀ (i : Instr) (s t : State), exec i s = .next t →
    SameMemOutside s.I.toNat (storedBytes i) s t ∧ (s.status = .running → t.status = .faulted → SameMem s t)) ∧
  ∀ (i : Instr) (s t : State) (m : Memory), exec i s = .next t → (∀ x, i ≠ .storeBcd x) → (∀ x, i ≠ .saveRegs x) →
    (∀ x, i ≠ .restoreRegs x) → (∀ x y n, i ≠ .draw x y n) → exec i (s.setMem m) = .next (t.setMem m)

/-- Sections 2 and 3 of 50_interfaces.md: the display changes only by `CLS` and `DRAW`, the timers only by `SET_DELAY` and
`SET_SOUND`, the keys by nothing CORE does, a key-press event is consumed only by `WAIT_KEY`, and only `UNKNOWN` emits a
diagnostic event. (What the environment itself changes is `envMove`, log entry 3.) -/
def Obligations.DevicesChangeOnlyOnRequest : Prop :=
  ∀ (i : Instr) (s t : State), exec i s = .next t →
    (i ≠ .cls → (∀ x y n, i ≠ .draw x y n) → SameDisplay s t) ∧
    ((∀ x, i ≠ .setDelay x) → t.delay = s.delay) ∧ ((∀ x, i ≠ .setSound x) → t.sound = s.sound) ∧
    t.keys = s.keys ∧ ((∀ x, i ≠ .waitKey x) → t.keyEvent = s.keyEvent) ∧
    t.rand = s.rand ∧ t.highKey = s.highKey ∧ t.highDigit = s.highDigit ∧ t.tick = s.tick ∧
    ((∀ hi lo, i ≠ .unknown hi lo) → t.diag = s.diag)

/-- R266, the spec's own decision D26: once parked at `a`, CORE stays parked at `a` through any number of steps, and its
registers, `I`, stack, memory and display, the program's result, never change. -/
def Obligations.ParkedForEver : Prop :=
  ∀ (s : State) (a : Addr12), s.Parked a → ∀ n : Nat, ∃ t, core.run n s = .next t ∧ t.Parked a ∧
    SameRegsBut [] s t ∧ SameAddrReg s t ∧ SameStack s t ∧ SameStatus s t ∧ SameMem s t ∧ SameDisplay s t ∧ SameDiag s t

/-- R63, which the spec marks as derived: a store is seen by the very next fetch: when `SAVE_REGS` or `STORE_BCD` covers the
two bytes at the next `pc`, the next fetch reads the bytes it has stored. -/
def Obligations.StoreIsSeenByTheNextFetch : Prop :=
  ∀ (x : Reg) (s t : State) (k : Nat), t.pc.toNat = s.I.toNat + k →
    (∀ h : k + 1 ≤ x.val, s.I.toNat + (x.val + 1) ≤ 4096 → exec (.saveRegs x) s = .next t →
      t.fetch = some (s.reg ⟨k, by omega⟩, s.reg ⟨k + 1, by omega⟩)) ∧
    (k + 1 ≤ 2 → s.I.toNat + 3 ≤ 4096 → exec (.storeBcd x) s = .next t →
      t.fetch = some ((bcd (s.reg x)).getD k 0, (bcd (s.reg x)).getD (k + 1) 0))

/-! ### `SYS`, `UNKNOWN` and control transfer -/

/-- R112, R113: `SYS` and `UNKNOWN` complete in every state and only advance `pc`; `UNKNOWN` also emits its event. A model may
drop the event (the spec's own decision D23); that this one appends it to a list in State is its choice (log entry 22, DESIGN
CHOICE). -/
def Obligations.SysAndUnknownAreNoOps : Prop :=
  ∀ (s : State),
    (∀ nnn, ∃ t, exec (.sys nnn) s = .next t ∧ t.pc = s.pc + 2 ∧ OnlyRegsAndPc [] s t) ∧
    (∀ hi lo, ∃ t, exec (.unknown hi lo) s = .next t ∧ t.pc = s.pc + 2 ∧ t.diag = s.diag ++ [⟨s.pc, hi, lo⟩] ∧
      SameRegsBut [] s t ∧ SameAddrReg s t ∧ SameStack s t ∧ SameStatus s t ∧ SameMem s t ∧ SameDisplay s t ∧
      SameTimers s t ∧ SameInputs s t)

/-- R122, R123: `JUMP` completes in every state. `CALL` with a free slot stores `npc` there, adds one to `sp` and jumps; with
sixteen addresses held it raises `StackOverflow` and nothing changes. -/
def Obligations.JumpAndCallGoToTheTarget : Prop :=
  ∀ (nnn : Addr12) (s : State),
    (∃ t, exec (.jump nnn) s = .next t ∧ t.pc.toNat = nnn.toNat ∧ OnlyRegsAndPc [] s t) ∧
    (s.sp.val < 16 → ∃ t, exec (.call nnn) s = .next t ∧ t.pc.toNat = nnn.toNat ∧ t.sp.val = s.sp.val + 1 ∧
      (∀ k : Fin 16, t.stack[k.val] = if k.val = s.sp.val then s.pc + 2 else s.stack[k.val]) ∧ OnlyStackAndPc s t) ∧
    (s.sp.val = 16 → ∃ t, exec (.call nnn) s = .next t ∧ FaultTaken .stackOverflow 0 s t)

/-- R124: `JUMP_OFFSET` completes in every state; the target is the exact sum with `x[0]`, not masked, which is the spec's own
decision D9 (log entry 17). -/
def Obligations.JumpOffsetGoesToTheExactSum : Prop :=
  ∀ (nnn : Addr12) (s : State), ∃ t, exec (.jumpOffset nnn) s = .next t ∧ t.pc.toNat = (s.reg 0).toNat + nnn.toNat ∧
    OnlyRegsAndPc [] s t

/-- R121: `RET` with an address held takes the newest one into `pc` and one from `sp`, the slot keeping its value; with
none held it raises `StackUnderflow` and nothing changes. -/
def Obligations.RetPopsTheReturnAddress : Prop :=
  ∀ s : State,
    (∀ _ : 0 < s.sp.val, ∃ t, exec .ret s = .next t ∧ t.pc = s.stack[s.sp.val - 1] ∧ t.sp.val = s.sp.val - 1 ∧
      (∀ k : Fin 16, t.stack[k.val] = s.stack[k.val]) ∧ OnlyStackAndPc s t) ∧
    (s.sp.val = 0 → ∃ t, exec .ret s = .next t ∧ FaultTaken .stackUnderflow 0 s t)

/-- 95_test_vectors.md E6: a `RET` that finds the stack as a `CALL` left it goes to the instruction after the `CALL`, with
`sp` as before it. -/
def Obligations.CallThenRetRoundTrips : Prop :=
  ∀ (nnn : Addr12) (s t u : State), s.sp.val < 16 → exec (.call nnn) s = .next t → u.sp = t.sp → u.stack = t.stack →
    ∃ v, exec .ret u = .next v ∧ v.pc = s.pc + 2 ∧ v.sp = s.sp

/-- R232: `CALL` raises `StackOverflow` exactly when all sixteen slots are in use; with `sp = 0`, any sixteen nested calls
succeed, and one more overflows with nothing pushed. -/
def Obligations.SeventeenthNestedCallOverflows : Prop :=
  (∀ (nnn : Addr12) (s : State),
    (∃ t, exec (.call nnn) s = .next t ∧ FaultTaken .stackOverflow 0 s t) ↔ s.sp.val = 16) ∧
  ∀ (targets : List Addr12) (s : State), s.status = .running → s.sp = 0 → targets.length = 16 →
    ∃ t, callAll targets s = .next t ∧ t.status = .running ∧ t.sp.val = 16 ∧
      ∀ nnn, ∃ u, exec (.call nnn) t = .next u ∧ FaultTaken .stackOverflow 0 t u

/-- R125, R126, R127, R128: the four skips complete in every state, add 4 to `pc` when the condition holds and 2 when it
does not, and change nothing else. -/
def Obligations.SkipsAddTwoOrFour : Prop :=
  ∀ (x y : Reg) (nn : Byte) (s : State),
    (∃ t, exec (.skipEqImm x nn) s = .next t ∧ OnlyRegsAndPc [] s t ∧
      (s.reg x = nn → t.pc = s.pc + 4) ∧ (s.reg x ≠ nn → t.pc = s.pc + 2)) ∧
    (∃ t, exec (.skipNeqImm x nn) s = .next t ∧ OnlyRegsAndPc [] s t ∧
      (s.reg x ≠ nn → t.pc = s.pc + 4) ∧ (s.reg x = nn → t.pc = s.pc + 2)) ∧
    (∃ t, exec (.skipEqReg x y) s = .next t ∧ OnlyRegsAndPc [] s t ∧
      (s.reg x = s.reg y → t.pc = s.pc + 4) ∧ (s.reg x ≠ s.reg y → t.pc = s.pc + 2)) ∧
    (∃ t, exec (.skipNeqReg x y) s = .next t ∧ OnlyRegsAndPc [] s t ∧
      (s.reg x ≠ s.reg y → t.pc = s.pc + 4) ∧ (s.reg x = s.reg y → t.pc = s.pc + 2))

/-! ### Loads and the ALU -/

/-- R142, R144: the two copies complete in every state and write one register. -/
def Obligations.CopiesWriteOneRegister : Prop :=
  ∀ (x y : Reg) (nn : Byte) (s : State),
    (∃ t, exec (.loadImm x nn) s = .next t ∧ t.reg x = nn ∧ t.pc = s.pc + 2 ∧ OnlyRegsAndPc [x] s t) ∧
    (∃ t, exec (.move x y) s = .next t ∧ t.reg x = s.reg y ∧ t.pc = s.pc + 2 ∧ OnlyRegsAndPc [x] s t)

/-- R143, R145, R146, R147: `ADD_IMM` wraps modulo 256 and the logical forms work bit by bit; all complete in every state and
write no flag, which is the spec's own decision D30 (log entry 21). -/
def Obligations.FlaglessOperationsWriteOneRegister : Prop :=
  ∀ (x y : Reg) (nn : Byte) (s : State),
    (∃ t, exec (.addImm x nn) s = .next t ∧ (t.reg x).toNat = ((s.reg x).toNat + nn.toNat) % 256 ∧ t.pc = s.pc + 2 ∧
      OnlyRegsAndPc [x] s t) ∧
    (∃ t, exec (.or x y) s = .next t ∧ t.pc = s.pc + 2 ∧ OnlyRegsAndPc [x] s t ∧
      ∀ b : Nat, (t.reg x).getLsbD b = ((s.reg x).getLsbD b || (s.reg y).getLsbD b)) ∧
    (∃ t, exec (.and x y) s = .next t ∧ t.pc = s.pc + 2 ∧ OnlyRegsAndPc [x] s t ∧
      ∀ b : Nat, (t.reg x).getLsbD b = ((s.reg x).getLsbD b && (s.reg y).getLsbD b)) ∧
    (∃ t, exec (.xor x y) s = .next t ∧ t.pc = s.pc + 2 ∧ OnlyRegsAndPc [x] s t ∧
      ∀ b : Nat, (t.reg x).getLsbD b = ((s.reg x).getLsbD b ^^ (s.reg y).getLsbD b))

/-- R148: `ADD` completes in every state, with both operands read before any write. The flag is the carry, and is
lost when register 15 is the destination. -/
def Obligations.AddWritesSumAndCarry : Prop :=
  ∀ (x y : Reg) (s : State), ∃ t, exec (.add x y) s = .next t ∧
    (t.reg x).toNat = ((s.reg x).toNat + (s.reg y).toNat) % 256 ∧
    (x ≠ 15 → (t.reg 15).toNat = if (s.reg x).toNat + (s.reg y).toNat > 255 then 1 else 0) ∧
    t.pc = s.pc + 2 ∧ OnlyRegsAndPc [x, 15] s t

/-- R149, R151: the two subtractions complete in every state; the flag is the strict comparison of the operands as they were
(0 when equal), and is lost when register 15 is the destination. With register 15 as an operand, that result and flag come from
the old operands is the spec's own decision D7 (log entry 15, DEDUCED). -/
def Obligations.SubtractionsWriteDifferenceAndComparison : Prop :=
  ∀ (x y : Reg) (s : State),
    (∃ t, exec (.sub x y) s = .next t ∧
      (t.reg x).toNat = ((s.reg x).toNat + 256 - (s.reg y).toNat) % 256 ∧
      (x ≠ 15 → (t.reg 15).toNat = if (s.reg x).toNat > (s.reg y).toNat then 1 else 0) ∧
      t.pc = s.pc + 2 ∧ OnlyRegsAndPc [x, 15] s t) ∧
    (∃ t, exec (.subn x y) s = .next t ∧
      (t.reg x).toNat = ((s.reg y).toNat + 256 - (s.reg x).toNat) % 256 ∧
      (x ≠ 15 → (t.reg 15).toNat = if (s.reg y).toNat > (s.reg x).toNat then 1 else 0) ∧
      t.pc = s.pc + 2 ∧ OnlyRegsAndPc [x, 15] s t)

/-- R150, R152: the two shifts complete in every state and work on `x[X]` whatever `Y` is; the flag is the bit shifted out,
and is lost when register 15 is the destination, where the old value shifted is what stays: the spec's own decision D7 (log
entry 15, DEDUCED). -/
def Obligations.ShiftsWriteResultAndBitShiftedOut : Prop :=
  ∀ (x y : Reg) (s : State),
    (∃ t, exec (.shr x y) s = .next t ∧ (t.reg x).toNat = (s.reg x).toNat / 2 ∧
      (x ≠ 15 → (t.reg 15).toNat = (s.reg x).toNat % 2) ∧ t.pc = s.pc + 2 ∧ OnlyRegsAndPc [x, 15] s t) ∧
    (∃ t, exec (.shl x y) s = .next t ∧ (t.reg x).toNat = 2 * (s.reg x).toNat % 256 ∧
      (x ≠ 15 → (t.reg 15).toNat = (s.reg x).toNat / 128) ∧ t.pc = s.pc + 2 ∧ OnlyRegsAndPc [x, 15] s t)

/-! ### The address register and memory -/

/-- R161: `LOAD_ADDR_REG` completes in every state; the address register is loaded zero-extended. -/
def Obligations.AddressRegisterIsLoaded : Prop :=
  ∀ (nnn : Addr12) (s : State), ∃ t, exec (.loadAddrReg nnn) s = .next t ∧ t.I.toNat = nnn.toNat ∧ t.pc = s.pc + 2 ∧
    OnlyAddrRegAndPc s t

/-- R162: `ADD_TO_ADDR` completes in every state; the sum is kept on 16 bits (the spec's own decision D8, log entry 17) and no
flag is written (its decision D30, log entry 21). -/
def Obligations.AddressRegisterIsAddedTo : Prop :=
  ∀ (x : Reg) (s : State), ∃ t, exec (.addToAddr x) s = .next t ∧
    t.I.toNat = (s.I.toNat + (s.reg x).toNat) % 65536 ∧ t.pc = s.pc + 2 ∧ OnlyAddrRegAndPc s t

/-- R163: `ADDR_OF_DIGIT` completes in every state; for a digit 0 to 15 `I` receives `DIGIT_ADDR`, a glyph that lies in
low memory; above 15 the value is unspecified and nothing is said of it (the free value of log entry 6). -/
def Obligations.AddrOfDigitWritesTheGlyphAddress : Prop :=
  ∀ (x : Reg) (s : State), ∃ t, exec (.addrOfDigit x) s = .next t ∧ t.pc = s.pc + 2 ∧ OnlyAddrRegAndPc s t ∧
    ∀ h : (s.reg x).toNat < 16, t.I.toNat = (Config.digitAddr ⟨(s.reg x).toNat, h⟩).val ∧ t.I.toNat + 5 ≤ 0x200

/-- R164: `STORE_BCD` stores the three decimal digits at `I`, hundreds first, when the three bytes lie inside memory; else
it raises `OutOfBounds(I)` and no byte is stored (the spec's own decision D16, log entry 18). -/
def Obligations.StoreBcdStoresThreeDigits : Prop :=
  ∀ (x : Reg) (s : State),
    (s.I.toNat + 3 ≤ 4096 → ∃ t, exec (.storeBcd x) s = .next t ∧
      (t.mem.read s.I.toNat).toNat = (s.reg x).toNat / 100 ∧
      (t.mem.read (s.I.toNat + 1)).toNat = (s.reg x).toNat / 10 % 10 ∧
      (t.mem.read (s.I.toNat + 2)).toNat = (s.reg x).toNat % 10 ∧
      t.pc = s.pc + 2 ∧ OnlyMemAndPc s.I.toNat 3 s t) ∧
    (s.I.toNat + 3 > 4096 → ∃ t, exec (.storeBcd x) s = .next t ∧ FaultTaken .outOfBounds s.I s t)

/-- R165: `SAVE_REGS` stores `x[0]` to `x[X]` at `I` when the range lies inside memory; else it raises `OutOfBounds(I)` and no
byte is stored. That the request is refused whole and `pc` kept are the spec's own decisions D16 and D6 (log entry 18, DEDUCED);
that `I` is unchanged its decision D15 (log entry 21, DEDUCED). -/
def Obligations.SaveRegsStoresTheRange : Prop :=
  ∀ (x : Reg) (s : State),
    (s.I.toNat + (x.val + 1) ≤ 4096 → ∃ t, exec (.saveRegs x) s = .next t ∧
      (∀ k : Reg, k ≤ x → t.mem.read (s.I.toNat + k.val) = s.reg k) ∧
      t.pc = s.pc + 2 ∧ OnlyMemAndPc s.I.toNat (x.val + 1) s t) ∧
    (s.I.toNat + (x.val + 1) > 4096 → ∃ t, exec (.saveRegs x) s = .next t ∧ FaultTaken .outOfBounds s.I s t)

/-- R166: `RESTORE_REGS` loads `x[0]` to `x[X]` from `I` when the range lies inside memory; else it raises `OutOfBounds(I)` and
no register is written. That the request is refused whole and `pc` kept are the spec's own decisions D16 and D6 (log entry 18,
DEDUCED); that `I` is unchanged its decision D15 (log entry 21, DEDUCED). -/
def Obligations.RestoreRegsLoadsTheRange : Prop :=
  ∀ (x : Reg) (s : State),
    (s.I.toNat + (x.val + 1) ≤ 4096 → ∃ t, exec (.restoreRegs x) s = .next t ∧
      (∀ k : Reg, t.reg k = if k ≤ x then s.mem.read (s.I.toNat + k.val) else s.reg k) ∧
      t.pc = s.pc + 2 ∧ SameAddrReg s t ∧ SameStack s t ∧ SameStatus s t ∧ SameOutside s t) ∧
    (s.I.toNat + (x.val + 1) > 4096 → ∃ t, exec (.restoreRegs x) s = .next t ∧ FaultTaken .outOfBounds s.I s t)

/-- 95_test_vectors.md E8: `RESTORE_REGS` in any state that has the memory and `I` a `SAVE_REGS` of the same count left
gives back the saved registers, whatever they hold by then, and leaves the others alone. -/
def Obligations.SaveThenRestoreGivesRegistersBack : Prop :=
  ∀ (x : Reg) (s t u : State), s.I.toNat + (x.val + 1) ≤ 4096 → exec (.saveRegs x) s = .next t →
    u.mem = t.mem → u.I = t.I →
    ∃ v, exec (.restoreRegs x) u = .next v ∧ ∀ k : Reg, v.reg k = if k ≤ x then s.reg k else u.reg k

/-! ### The capability -/

/-- R171, R204: `CLS` completes in every state; every pixel becomes 0 and nothing else changes. -/
def Obligations.ClsClearsEveryPixel : Prop :=
  ∀ s : State, ∃ t, exec .cls s = .next t ∧ (∀ row col, t.display.pixel row col = false) ∧ t.pc = s.pc + 2 ∧
    SameRegsBut [] s t ∧ SameAddrReg s t ∧ SameStack s t ∧ SameStatus s t ∧ SameMem s t ∧ SameTimers s t ∧
    SameInputs s t ∧ SameDiag s t

/-- R172: `RANDOM_MASK` completes in every state; `x[X]` receives the environment's byte and-ed with `NN`, so every bit
that is 0 in `NN` is 0, whatever the byte is. -/
def Obligations.RandomMaskKeepsOnlyMaskedBits : Prop :=
  ∀ (x : Reg) (nn : Byte) (s : State), ∃ t, exec (.randomMask x nn) s = .next t ∧
    (∀ b : Nat, (t.reg x).getLsbD b = (s.rand.getLsbD b && nn.getLsbD b)) ∧
    (∀ b : Nat, nn.getLsbD b = false → (t.reg x).getLsbD b = false) ∧ t.pc = s.pc + 2 ∧ OnlyRegsAndPc [x] s t

/-- R173, R205: when the `N` bytes at `I` lie inside memory, `DRAW` inverts exactly the pixels under a 1 bit of the
sprite, each coordinate wrapped, and `x[15]` becomes 1 when one of them was set and 0 when none was, also for `N = 0`;
else it raises `OutOfBounds(I)` and nothing is drawn. That each pixel wraps on its own is the spec's own decision D19, the
order of rows and bits its general knowledge (log entry 19). -/
def Obligations.DrawXorsTheSpriteAndReportsCollision : Prop :=
  ∀ (x y : Reg) (n : Nibble) (s : State),
    (s.I.toNat + n.toNat ≤ 4096 → ∃ t, exec (.draw x y n) s = .next t ∧
      (∀ row col, SpriteCovers s (s.reg x) (s.reg y) n.toNat row col →
        t.display.pixel row col = !s.display.pixel row col) ∧
      (∀ row col, ¬SpriteCovers s (s.reg x) (s.reg y) n.toNat row col →
        t.display.pixel row col = s.display.pixel row col) ∧
      ((∃ row col, SpriteCovers s (s.reg x) (s.reg y) n.toNat row col ∧ s.display.pixel row col = true) →
        t.reg 15 = 1) ∧
      ((¬∃ row col, SpriteCovers s (s.reg x) (s.reg y) n.toNat row col ∧ s.display.pixel row col = true) →
        t.reg 15 = 0) ∧
      t.pc = s.pc + 2 ∧ SameRegsBut [15] s t ∧ SameAddrReg s t ∧ SameStack s t ∧ SameStatus s t ∧ SameMem s t ∧
      SameTimers s t ∧ SameInputs s t ∧ SameDiag s t) ∧
    (s.I.toNat + n.toNat > 4096 → ∃ t, exec (.draw x y n) s = .next t ∧ FaultTaken .outOfBounds s.I s t)

/-- 95_test_vectors.md E9: the same sprite drawn a second time at the same place puts the display back as it was, and where
it covered a clear pixel the first time it reports a collision the second time. The coordinates must survive the first
draw, which writes `x[15]`. Wrapping each pixel is the spec's own decision D19 (log entry 19). -/
def Obligations.DrawingTwiceErases : Prop :=
  ∀ (x y : Reg) (n : Nibble) (s t : State), s.I.toNat + n.toNat ≤ 4096 → exec (.draw x y n) s = .next t →
    t.reg x = s.reg x → t.reg y = s.reg y →
    ∃ u, exec (.draw x y n) t = .next u ∧ SameDisplay s u ∧
      ((∃ row col, SpriteCovers s (s.reg x) (s.reg y) n.toNat row col ∧ s.display.pixel row col = false) →
        u.reg 15 = 1)

/-- R174, R175: the two key skips complete in every state and change `pc` only. For an index 0 to 15 they skip by the
state of that key; for one above 15 the answer is unspecified (the spec's own decision D17) and `pc` is one of the two values,
the free value of log entry 6. -/
def Obligations.KeySkipsFollowTheKey : Prop :=
  ∀ (x : Reg) (s : State), ∃ t u,
    exec (.skipIfPressed x) s = .next t ∧ exec (.skipIfNotPressed x) s = .next u ∧
    OnlyRegsAndPc [] s t ∧ OnlyRegsAndPc [] s u ∧
    (t.pc = s.pc + 2 ∨ t.pc = s.pc + 4) ∧ (u.pc = s.pc + 2 ∨ u.pc = s.pc + 4) ∧
    ∀ h : (s.reg x).toNat < 16,
      (s.keys[(s.reg x).toNat] = true → t.pc = s.pc + 4 ∧ u.pc = s.pc + 2) ∧
      (s.keys[(s.reg x).toNat] = false → t.pc = s.pc + 2 ∧ u.pc = s.pc + 4)

/-- R176, R178, R179: the timer instructions complete in every state: a read gives the delay timer's value at that step, a
write gives the timer the register's value, and nothing else changes. -/
def Obligations.TimerInstructionsReadAndWrite : Prop :=
  ∀ (x : Reg) (s : State),
    (∃ t, exec (.getDelay x) s = .next t ∧ t.reg x = s.delay ∧ t.pc = s.pc + 2 ∧ OnlyRegsAndPc [x] s t) ∧
    (∃ t, exec (.setDelay x) s = .next t ∧ t.delay = s.reg x ∧ t.sound = s.sound ∧ t.pc = s.pc + 2 ∧
      SameRegsBut [] s t ∧ SameAddrReg s t ∧ SameStack s t ∧ SameStatus s t ∧ SameMem s t ∧ SameDisplay s t ∧
      SameInputs s t ∧ SameDiag s t) ∧
    (∃ t, exec (.setSound x) s = .next t ∧ t.sound = s.reg x ∧ t.delay = s.delay ∧ t.pc = s.pc + 2 ∧
      SameRegsBut [] s t ∧ SameAddrReg s t ∧ SameStack s t ∧ SameStatus s t ∧ SameMem s t ∧ SameDisplay s t ∧
      SameInputs s t ∧ SameDiag s t)

/-- Section 4 of 44_capability_io.md: with a key-press event there, `WAIT_KEY` completes with the key's index in `x[X]` and
the event consumed; with none there nothing changes at all and `pc` still addresses the instruction. That a held step is a
step of the model is its choice (log entry 2). -/
def Obligations.WaitKeyHoldsUntilAKeyPress : Prop :=
  ∀ (x : Reg) (s : State),
    (∀ key, s.keyEvent = some key → ∃ t, exec (.waitKey x) s = .next t ∧ (t.reg x).toNat = key.val ∧
      t.keyEvent = none ∧ t.pc = s.pc + 2 ∧ SameRegsBut [x] s t ∧ SameAddrReg s t ∧ SameStack s t ∧ SameStatus s t ∧
      SameMem s t ∧ SameDisplay s t ∧ SameTimers s t ∧ t.keys = s.keys ∧ SameDiag s t) ∧
    (s.keyEvent = none → exec (.waitKey x) s = .next s)

/-- Section 3 of 50_interfaces.md (R214): over any run in which no `SET_DELAY` is decoded the delay timer never rises, so
every `GET_DELAY` in it answers at most what the timer held at its start, and once 0 it stays 0. The contract is the spec's own
decision D25; the environment's move is the model's (log entries 3 and 9). -/
def Obligations.DelayTimerNeverRisesUnlessSet : Prop :=
  ∀ (n : Nat) (s t : State), s.Avoids (fun i => ∃ x, i = .setDelay x) n → core.run n s = .next t →
    t.delay.toNat ≤ s.delay.toNat

/-- Section 5 of 44_capability_io.md: no program can observe the sound timer: two states that differ only in it step to
states that differ at most in it. -/
def Obligations.SoundTimerIsUnobservable : Prop :=
  ∀ (s s' : State) (v : Byte), step s = .next s' → ∃ w, step { s with sound := v } = .next { s' with sound := w }
end

