-- ==== Sys2Proof/Laws/Capability.lean ====
section
/-! SUPPORT. What the drawing operation does, said once (spec/50_interfaces.md rule R205). -/

namespace Sys2Proof.Machine

/-- A pixel after one pixel has been written. -/
theorem Display.pixel_setPixel (d : Display) (r r' : Fin 32) (c c' : Fin 64) (v : Bool) :
    (d.setPixel r c v).pixel r' c' = if r' = r ∧ c' = c then v else d.pixel r' c' := by
  unfold Display.pixel Display.setPixel
  by_cases hr : r' = r
  · subst hr
    by_cases hc : c' = c
    · subst hc
      simp
    · have : c.val ≠ c'.val := fun e => hc (Fin.ext e.symm)
      simp [hc, this]
  · have : r.val ≠ r'.val := fun e => hr (Fin.ext e.symm)
    simp [hr, this]

/-- Every pixel of the cleared display is 0 (R204). -/
theorem Display.pixel_clear (r : Fin 32) (c : Fin 64) : Display.clear.pixel r c = false := by
  simp [Display.pixel, Display.clear]

/-- Columns `c` to `c + n - 1` of the sprite row `b` drawn at `(x, y)` have a 1 bit over the pixel `(r, q)`. -/
def RowCovers (x y : Nat) (b : Byte) (c n : Nat) (r : Fin 32) (q : Fin 64) : Prop :=
  ∃ k, c ≤ k ∧ k < c + n ∧ b.getLsbD (7 - k) = true ∧ r.val = y % 32 ∧ q.val = (x + k) % 64

/-- The rows `bs` drawn at `(x, y)` have a 1 bit over the pixel `(r, q)`. -/
def RowsCover (x y : Nat) (bs : List Byte) (r : Fin 32) (q : Fin 64) : Prop :=
  ∃ k, ∃ h : k < bs.length, RowCovers x (y + k) bs[k] 0 8 r q

theorem rowCovers_zero (x y : Nat) (b : Byte) (c : Nat) (r : Fin 32) (q : Fin 64) : ¬RowCovers x y b c 0 r q := by
  rintro ⟨k, h1, h2, -⟩
  omega

/-- The leftmost column of a row, and the rest. -/
theorem rowCovers_succ (x y : Nat) (b : Byte) (c n : Nat) (r : Fin 32) (q : Fin 64) :
    RowCovers x y b c (n + 1) r q ↔
      (b.getLsbD (7 - c) = true ∧ r.val = y % 32 ∧ q.val = (x + c) % 64) ∨ RowCovers x y b (c + 1) n r q := by
  constructor
  · rintro ⟨k, h1, h2, h3⟩
    by_cases e : k = c
    · subst e
      exact .inl h3
    · exact .inr ⟨k, by omega, by omega, h3⟩
  · rintro (h | ⟨k, h1, h2, h3⟩)
    · exact ⟨c, Nat.le_refl _, by omega, h⟩
    · exact ⟨k, by omega, by omega, h3⟩

/-- One row: the pixels under its 1 bits are inverted, and one that was set is a collision. -/
theorem blitRow_spec (x y : Nat) (b : Byte) (n c : Nat) (h : c + n ≤ 8) (acc : Display × Bool) :
    (∀ r q, RowCovers x y b c n r q → (blitRow acc x y b c n).1.pixel r q = !acc.1.pixel r q) ∧
    (∀ r q, ¬RowCovers x y b c n r q → (blitRow acc x y b c n).1.pixel r q = acc.1.pixel r q) ∧
    ((blitRow acc x y b c n).2 = true ↔ acc.2 = true ∨ ∃ r q, RowCovers x y b c n r q ∧ acc.1.pixel r q = true) := by
  induction n generalizing c acc with
  | zero => exact ⟨fun r q hc => absurd hc (rowCovers_zero _ _ _ _ _ _), fun _ _ _ => rfl,
      fun h => .inl h, fun h => h.elim id fun ⟨r, q, hc, _⟩ => absurd hc (rowCovers_zero _ _ _ _ _ _)⟩
  | succ n ih =>
    rw [blitRow]
    by_cases hb : b.getLsbD (7 - c) = true
    · obtain ⟨i1, i2, i3⟩ := ih (c + 1) (by omega) (blitPixel acc (x + c) y)
      rw [if_pos hb]
      have hp : ∀ r q, (blitPixel acc (x + c) y).1.pixel r q =
          if r.val = y % 32 ∧ q.val = (x + c) % 64 then !acc.1.pixel r q else acc.1.pixel r q := by
        intro r q
        rw [blitPixel, Display.pixel_setPixel]
        by_cases e : r = Fin.ofNat 32 y ∧ q = Fin.ofNat 64 (x + c)
        · obtain ⟨rfl, rfl⟩ := e
          simp
        · have e' : ¬(r.val = y % 32 ∧ q.val = (x + c) % 64) := fun ⟨a, b⟩ => e ⟨Fin.ext a, Fin.ext b⟩
          simp only [if_neg e, if_neg e']
      have hd : ∀ r q, r.val = y % 32 ∧ q.val = (x + c) % 64 → ¬RowCovers x y b (c + 1) n r q := by
        rintro r q ⟨-, e⟩ ⟨k, h1, h2, -, -, e'⟩
        omega
      refine ⟨fun r q hc => ?_, fun r q hc => ?_, ?_⟩
      · rcases (rowCovers_succ _ _ _ _ _ _ _).1 hc with ⟨-, e⟩ | hc
        · rw [i2 _ _ (hd r q e), hp, if_pos e]
        · rw [i1 _ _ hc, hp, if_neg fun e => hd r q e hc]
      · rw [rowCovers_succ, not_or] at hc
        rw [i2 _ _ hc.2, hp, if_neg fun e => hc.1 ⟨hb, e⟩]
      · rw [i3, blitPixel, Bool.or_eq_true]
        constructor
        · rintro ((h | h) | ⟨r, q, hc, h⟩)
          · exact .inl h
          · exact .inr ⟨_, _, (rowCovers_succ _ _ _ _ _ _ _).2 (.inl ⟨hb, rfl, rfl⟩), h⟩
          · have := hp r q
            rw [blitPixel, if_neg fun e => hd r q e hc] at this
            exact .inr ⟨r, q, (rowCovers_succ _ _ _ _ _ _ _).2 (.inr hc), this ▸ h⟩
        · rintro (h | ⟨r, q, hc, h⟩)
          · exact .inl (.inl h)
          · rcases (rowCovers_succ _ _ _ _ _ _ _).1 hc with ⟨-, e1, e2⟩ | hc
            · have : r = Fin.ofNat 32 y := Fin.ext e1
              have : q = Fin.ofNat 64 (x + c) := Fin.ext e2
              subst r q
              exact .inl (.inr h)
            · have := hp r q
              rw [blitPixel, if_neg fun e => hd r q e hc] at this
              exact .inr ⟨r, q, hc, this ▸ h⟩
    · obtain ⟨i1, i2, i3⟩ := ih (c + 1) (by omega) acc
      rw [if_neg hb]
      have e : ∀ r q, RowCovers x y b c (n + 1) r q ↔ RowCovers x y b (c + 1) n r q := by
        intro r q
        rw [rowCovers_succ]
        exact ⟨fun h => h.elim (fun h => absurd h.1 hb) id, .inr⟩
      simp only [e]
      exact ⟨i1, i2, i3⟩

/-- The topmost row of a sprite, and the rest. -/
theorem rowsCover_cons (x y : Nat) (b : Byte) (bs : List Byte) (r : Fin 32) (q : Fin 64) :
    RowsCover x y (b :: bs) r q ↔ RowCovers x y b 0 8 r q ∨ RowsCover x (y + 1) bs r q := by
  constructor
  · rintro ⟨k, hk, h⟩
    cases k with
    | zero => exact .inl h
    | succ k => exact .inr ⟨k, by simpa using hk, by simpa [Nat.add_assoc, Nat.add_comm 1 k] using h⟩
  · rintro (h | ⟨k, hk, h⟩)
    · exact ⟨0, by simp, h⟩
    · exact ⟨k + 1, by simpa using hk, by simpa [Nat.add_assoc, Nat.add_comm 1 k] using h⟩

/-- A sprite of at most 32 rows: the pixels under its 1 bits are inverted, and one that was set is a collision. -/
theorem blitRows_spec (x y : Nat) (bs : List Byte) (h : bs.length ≤ 32) (acc : Display × Bool) :
    (∀ r q, RowsCover x y bs r q → (blitRows acc x y bs).1.pixel r q = !acc.1.pixel r q) ∧
    (∀ r q, ¬RowsCover x y bs r q → (blitRows acc x y bs).1.pixel r q = acc.1.pixel r q) ∧
    ((blitRows acc x y bs).2 = true ↔ acc.2 = true ∨ ∃ r q, RowsCover x y bs r q ∧ acc.1.pixel r q = true) := by
  induction bs generalizing y acc with
  | nil => exact ⟨fun r q ⟨_, hk, _⟩ => absurd hk (Nat.not_lt_zero _), fun _ _ _ => rfl,
      fun h => .inl h, fun h => h.elim id fun ⟨_, _, ⟨_, hk, _⟩, _⟩ => absurd hk (Nat.not_lt_zero _)⟩
  | cons b bs ih =>
    rw [List.length_cons] at h
    obtain ⟨j1, j2, j3⟩ := blitRow_spec x y b 8 0 (Nat.le_refl _) acc
    obtain ⟨i1, i2, i3⟩ := ih (y + 1) (by omega) (blitRow acc x y b 0 8)
    have hd : ∀ r q, RowCovers x y b 0 8 r q → ¬RowsCover x (y + 1) bs r q := by
      rintro r q ⟨_, -, -, -, e, -⟩ ⟨k, hk, _, -, -, -, e', -⟩
      omega
    rw [blitRows]
    simp only [rowsCover_cons]
    refine ⟨fun r q hc => ?_, fun r q hc => ?_, ?_⟩
    · rcases hc with hc | hc
      · rw [i2 _ _ (hd r q hc), j1 _ _ hc]
      · rw [i1 _ _ hc, j2 _ _ fun h => hd r q h hc]
    · rw [not_or] at hc
      rw [i2 _ _ hc.2, j2 _ _ hc.1]
    · rw [i3, j3]
      constructor
      · rintro ((h | ⟨r, q, hc, h⟩) | ⟨r, q, hc, h⟩)
        · exact .inl h
        · exact .inr ⟨r, q, .inl hc, h⟩
        · rw [j2 _ _ fun h => hd r q h hc] at h
          exact .inr ⟨r, q, .inr hc, h⟩
      · rintro (h | ⟨r, q, hc | hc, h⟩)
        · exact .inl (.inl h)
        · exact .inl (.inr ⟨r, q, hc, h⟩)
        · rw [← j2 _ _ fun h => hd r q h hc] at h
          exact .inr ⟨r, q, hc, h⟩

end Sys2Proof.Machine
end

