-- ==== Sys2Proof/Laws/Decode.lean ====
section
/-! SUPPORT. Words as numbers: the instruction word of two bytes, the fields of an encoded word. -/

namespace Sys2Proof

/-- `w = hi ++ lo` as a number (R81). -/
theorem toNat_instrWord (hi lo : Byte) : (instrWord hi lo).toNat = hi.toNat * 256 + lo.toNat := by
  have h := lo.isLt
  rw [instrWord, BitVec.toNat_append, ← Nat.shiftLeft_add_eq_or_of_lt h, Nat.shiftLeft_eq]

theorem toNat_formatA (op : Nat) (h : op < 16) (nnn : Addr12) :
    (formatA op nnn).toNat = op * 0x1000 + nnn.toNat := by
  have := nnn.isLt
  rw [formatA, BitVec.toNat_ofNat, Nat.mod_eq_of_lt (by omega)]

theorem toNat_formatXI (op : Nat) (h : op < 16) (x : Reg) (nn : Byte) :
    (formatXI op x nn).toNat = op * 0x1000 + x.val * 0x100 + nn.toNat := by
  have := nn.isLt
  have := x.isLt
  rw [formatXI, BitVec.toNat_ofNat, Nat.mod_eq_of_lt (by omega)]

theorem toNat_formatXY (op : Nat) (h : op < 16) (x y : Reg) (n : Nibble) :
    (formatXY op x y n).toNat = op * 0x1000 + x.val * 0x100 + y.val * 0x10 + n.toNat := by
  have := n.isLt
  have := x.isLt
  have := y.isLt
  rw [formatXY, BitVec.toNat_ofNat, Nat.mod_eq_of_lt (by omega)]

/-- The word is its two bytes (R81). -/
theorem instrWord_hiByte_loByte (w : Word) : instrWord (hiByte w) (loByte w) = w := by
  apply BitVec.eq_of_toNat_eq
  have := w.isLt
  rw [toNat_instrWord, hiByte, loByte, bits, bits, BitVec.toNat_ofNat, BitVec.toNat_ofNat]
  omega

@[simp] theorem hiByte_instrWord (hi lo : Byte) : hiByte (instrWord hi lo) = hi := by
  apply BitVec.eq_of_toNat_eq
  have := hi.isLt
  have := lo.isLt
  rw [hiByte, bits, BitVec.toNat_ofNat, toNat_instrWord]
  omega

@[simp] theorem loByte_instrWord (hi lo : Byte) : loByte (instrWord hi lo) = lo := by
  apply BitVec.eq_of_toNat_eq
  have := hi.isLt
  have := lo.isLt
  rw [loByte, bits, BitVec.toNat_ofNat, toNat_instrWord]
  omega

end Sys2Proof
end

