-- ==== Sys2Proof/Laws/Memory.lean ====
section
/-! SUPPORT. The memory: every operation keeps the canonical form, a read after a write gives the value written, and a
write leaves every other byte alone (spec/20_memory.md rules R53, R54, R58). -/

namespace Sys2Proof.Machine.Memory

/-! ### One byte -/

theorem wf_cons (c : Host.Cell) (m : Memory) :
    Memory.wf (c :: m) = true ↔ c.1 < Config.memSize ∧ (∀ d ∈ m, c.1 < d.1) ∧ Memory.wf m = true := by
  simp [Memory.wf, and_assoc]

/-- The cells after a write: the written one and old ones. -/
theorem mem_write {m : Memory} {a : Nat} {v : Byte} {d : Host.Cell} (h : d ∈ m.write a v) : d = (a, v) ∨ d ∈ m := by
  induction m with
  | nil => exact .inl (List.mem_singleton.1 h)
  | cons c m ih =>
    obtain ⟨b, w⟩ := c
    rw [Memory.write] at h
    split at h
    · simpa using h
    · split at h
      · rcases List.mem_cons.1 h with h | h
        · exact .inl h
        · exact .inr (List.mem_cons_of_mem _ h)
      · rcases List.mem_cons.1 h with h | h
        · exact .inr (h ▸ List.mem_cons_self)
        · exact (ih h).imp_right (List.mem_cons_of_mem _)

/-- A write inside memory keeps the canonical form. -/
theorem wf_write {m : Memory} (hm : m.wf = true) {a : Nat} (ha : a < Config.memSize) (v : Byte) :
    (m.write a v).wf = true := by
  induction m with
  | nil => exact (wf_cons _ _).2 ⟨ha, fun _ hd => absurd hd List.not_mem_nil, rfl⟩
  | cons c m ih =>
    obtain ⟨b, w⟩ := c
    have hcons := hm
    obtain ⟨hb, hlt, hm⟩ := (wf_cons _ _).1 hm
    rw [Memory.write]
    split
    · next hab =>
      refine (wf_cons _ _).2 ⟨ha, fun d hd => ?_, hcons⟩
      rcases List.mem_cons.1 hd with rfl | hd
      · exact hab
      · exact Nat.lt_trans hab (hlt d hd)
    · split
      · next hab => exact (wf_cons _ _).2 ⟨ha, fun d hd => hab ▸ hlt d hd, hm⟩
      · refine (wf_cons _ _).2 ⟨hb, fun d hd => ?_, ih hm⟩
        rcases mem_write hd with rfl | hd
        · show b < a
          omega
        · exact hlt d hd

/-- What each byte reads as after a write. -/
theorem read_write (m : Memory) (a : Nat) (v : Byte) (k : Nat) :
    (m.write a v).read k = if k = a then v else m.read k := by
  induction m with
  | nil => rfl
  | cons c m ih =>
    obtain ⟨b, w⟩ := c
    rw [Memory.write]
    split
    · rfl
    · split
      · next hab =>
        subst hab
        by_cases hk : k = a <;> simp [hk, Memory.read]
      · next hab =>
        rw [Memory.read, Memory.read, ih]
        by_cases hkb : k = b
        · subst hkb
          rw [if_pos rfl, if_pos rfl, if_neg (by omega)]
        · simp [hkb]

/-- Nothing has been stored, so every byte is the one of `MEM_INIT` (R51). -/
@[simp] theorem read_nil (k : Nat) : Memory.read [] k = Config.memInit k := rfl

/-! ### Byte sequences -/

/-- A write of a sequence inside memory keeps the canonical form. -/
theorem wf_writeBytes {m : Memory} (hm : m.wf = true) {a : Nat} (bs : List Byte)
    (ha : a + bs.length ≤ Config.memSize) : (m.writeBytes a bs).wf = true := by
  induction bs generalizing m a with
  | nil => exact hm
  | cons b bs ih =>
    rw [List.length_cons] at ha
    exact ih (wf_write hm (by omega) b) (by omega)

/-- What each byte reads as after a write of a sequence. -/
theorem read_writeBytes (m : Memory) (a : Nat) (bs : List Byte) (k : Nat) :
    (m.writeBytes a bs).read k = if h : a ≤ k ∧ k < a + bs.length then bs[k - a] else m.read k := by
  induction bs generalizing m a with
  | nil => simp [Memory.writeBytes]
  | cons b bs ih =>
    rw [Memory.writeBytes, ih, read_write]
    by_cases hk : k = a
    · subst hk
      simp
    · by_cases hin : a + 1 ≤ k ∧ k < a + 1 + bs.length
      · have hka : k - a = (k - (a + 1)) + 1 := by omega
        have h2 : a ≤ k ∧ k < a + (b :: bs).length := by simp; omega
        simp only [hin, h2, and_self, dite_true, hka, List.getElem_cons_succ]
      · have h2 : ¬(a ≤ k ∧ k < a + (b :: bs).length) := by simp; omega
        simp only [hin, h2, dite_false, hk, if_false]

/-- A byte outside the sequence reads as before. -/
theorem read_writeBytes_outside (m : Memory) (a : Nat) (bs : List Byte) (k : Nat) (h : k < a ∨ a + bs.length ≤ k) :
    (m.writeBytes a bs).read k = m.read k := by
  rw [read_writeBytes, dif_neg (by omega)]

/-- A byte inside the sequence reads as the byte written there. -/
theorem read_writeBytes_inside (m : Memory) (a : Nat) (bs : List Byte) (j : Nat) (h : j < bs.length) :
    (m.writeBytes a bs).read (a + j) = bs[j] := by
  rw [read_writeBytes, dif_pos ⟨Nat.le_add_right _ _, by omega⟩]
  simp

/-! ### The boot image (R264) -/

/-- A byte no glyph covers reads as before. -/
theorem read_placeGlyphs_outside (m : Memory) (glyphs : Vector (Vector Byte 5) 16) (a : Nat)
    (h : ∀ d, a < (Config.digitAddr d).val ∨ (Config.digitAddr d).val + 5 ≤ a) :
    (m.placeGlyphs glyphs).read a = m.read a := by
  rw [Memory.placeGlyphs]
  induction List.finRange 16 generalizing m with
  | nil => rfl
  | cons d ds ih =>
    rw [List.foldl_cons, ih, read_writeBytes_outside _ _ _ _ (by simpa using h d)]

/-- A glyph byte reads as placed when no overlapping glyph has another byte there. -/
theorem read_placeGlyphs (m : Memory) (glyphs : Vector (Vector Byte 5) 16) (d : Fin 16) (k : Fin 5)
    (h : ∀ (e : Fin 16) (j : Fin 5), (Config.digitAddr e).val + j.val = (Config.digitAddr d).val + k.val →
      (glyphs[e.val])[j.val] = (glyphs[d.val])[k.val]) :
    (m.placeGlyphs glyphs).read ((Config.digitAddr d).val + k.val) = (glyphs[d.val])[k.val] := by
  have step : ∀ (m : Memory) (e : Fin 16),
      e = d ∨ m.read ((Config.digitAddr d).val + k.val) = (glyphs[d.val])[k.val] →
      (m.writeBytes (Config.digitAddr e).val (glyphs[e.val]).toList).read ((Config.digitAddr d).val + k.val) =
        (glyphs[d.val])[k.val] := by
    intro m e hm
    rw [read_writeBytes]
    split
    · next hin =>
      obtain ⟨h1, h2⟩ := hin
      simp only [Vector.length_toList] at h2
      simpa using h e ⟨(Config.digitAddr d).val + k.val - (Config.digitAddr e).val, by omega⟩
        (Nat.add_sub_cancel' h1)
    · next hout =>
      refine hm.resolve_left fun he => hout ?_
      subst he
      simp
  have fold : ∀ (ds : List (Fin 16)) (m : Memory),
      (d ∈ ds ∨ m.read ((Config.digitAddr d).val + k.val) = (glyphs[d.val])[k.val]) →
      (ds.foldl (fun m e => m.writeBytes (Config.digitAddr e).val (glyphs[e.val]).toList) m).read
        ((Config.digitAddr d).val + k.val) = (glyphs[d.val])[k.val] := by
    intro ds
    induction ds with
    | nil => exact fun m hm => hm.resolve_left List.not_mem_nil
    | cons e es ih =>
      intro m hm
      refine ih _ ?_
      rcases hm with hm | hm
      · exact (List.mem_cons.1 hm).elim (fun he => .inr (step m e (.inl he.symm))) .inl
      · exact .inr (step m e (.inr hm))
  exact fold _ m (.inl (List.mem_finRange d))

/-- Placing the glyphs keeps the canonical form, since each ends at or below 0x200. -/
theorem wf_placeGlyphs {m : Memory} (hm : m.wf = true) (glyphs : Vector (Vector Byte 5) 16) :
    (m.placeGlyphs glyphs).wf = true := by
  rw [Memory.placeGlyphs]
  induction List.finRange 16 generalizing m with
  | nil => exact hm
  | cons d ds ih => exact ih (wf_writeBytes hm _ (by have := (Config.digitAddr d).isLt; simp [Config.memSize]; omega))

/-! ### Reading -/

@[simp] theorem length_readBytes (m : Memory) (a n : Nat) : (m.readBytes a n).length = n := by
  induction n generalizing a with
  | zero => rfl
  | succ n ih => simp [Memory.readBytes, ih]

/-- Byte `k` of a read is the byte at `addr + k` (R53). -/
@[simp] theorem getElem_readBytes (m : Memory) (a n k : Nat) (h : k < (m.readBytes a n).length) :
    (m.readBytes a n)[k] = m.read (a + k) := by
  induction n generalizing a k with
  | zero => simp at h
  | succ n ih =>
    cases k with
    | zero => simp [Memory.readBytes]
    | succ k =>
      have hk : k < (m.readBytes (a + 1) n).length := by simpa using h
      simp only [Memory.readBytes, List.getElem_cons_succ]
      rw [ih (a + 1) k hk]
      congr 1
      omega

end Sys2Proof.Machine.Memory
end

