-- ==== Sys2Proof/Laws/State.lean ====
section
/-! SUPPORT. What each update of the state leaves in each field, one lemma a field, so that no later proof unfolds a record
update. -/

namespace Sys2Proof.Machine.State

/-! ### `setReg` -/

@[simp] theorem setReg_x (s : State) (r : Reg) (v : Byte) : (s.setReg r v).x = s.x.set r.val v := rfl
@[simp] theorem setReg_I (s : State) (r : Reg) (v : Byte) : (s.setReg r v).I = s.I := rfl
@[simp] theorem setReg_pc (s : State) (r : Reg) (v : Byte) : (s.setReg r v).pc = s.pc := rfl
@[simp] theorem setReg_sp (s : State) (r : Reg) (v : Byte) : (s.setReg r v).sp = s.sp := rfl
@[simp] theorem setReg_stack (s : State) (r : Reg) (v : Byte) : (s.setReg r v).stack = s.stack := rfl
@[simp] theorem setReg_status (s : State) (r : Reg) (v : Byte) : (s.setReg r v).status = s.status := rfl
@[simp] theorem setReg_faultKind (s : State) (r : Reg) (v : Byte) : (s.setReg r v).faultKind = s.faultKind := rfl
@[simp] theorem setReg_faultPc (s : State) (r : Reg) (v : Byte) : (s.setReg r v).faultPc = s.faultPc := rfl
@[simp] theorem setReg_faultAddr (s : State) (r : Reg) (v : Byte) : (s.setReg r v).faultAddr = s.faultAddr := rfl
@[simp] theorem setReg_mem (s : State) (r : Reg) (v : Byte) : (s.setReg r v).mem = s.mem := rfl
@[simp] theorem setReg_display (s : State) (r : Reg) (v : Byte) : (s.setReg r v).display = s.display := rfl
@[simp] theorem setReg_delay (s : State) (r : Reg) (v : Byte) : (s.setReg r v).delay = s.delay := rfl
@[simp] theorem setReg_sound (s : State) (r : Reg) (v : Byte) : (s.setReg r v).sound = s.sound := rfl
@[simp] theorem setReg_keys (s : State) (r : Reg) (v : Byte) : (s.setReg r v).keys = s.keys := rfl
@[simp] theorem setReg_keyEvent (s : State) (r : Reg) (v : Byte) : (s.setReg r v).keyEvent = s.keyEvent := rfl
@[simp] theorem setReg_rand (s : State) (r : Reg) (v : Byte) : (s.setReg r v).rand = s.rand := rfl
@[simp] theorem setReg_diag (s : State) (r : Reg) (v : Byte) : (s.setReg r v).diag = s.diag := rfl
@[simp] theorem setReg_highKey (s : State) (r : Reg) (v : Byte) : (s.setReg r v).highKey = s.highKey := rfl
@[simp] theorem setReg_highDigit (s : State) (r : Reg) (v : Byte) : (s.setReg r v).highDigit = s.highDigit := rfl
@[simp] theorem setReg_tick (s : State) (r : Reg) (v : Byte) : (s.setReg r v).tick = s.tick := rfl
@[simp] theorem setReg_npc (s : State) (r : Reg) (v : Byte) : (s.setReg r v).npc = s.npc := rfl

/-! ### `setI` -/

@[simp] theorem setI_x (s : State) (v : Word) : (s.setI v).x = s.x := rfl
@[simp] theorem setI_I (s : State) (v : Word) : (s.setI v).I = v := rfl
@[simp] theorem setI_pc (s : State) (v : Word) : (s.setI v).pc = s.pc := rfl
@[simp] theorem setI_sp (s : State) (v : Word) : (s.setI v).sp = s.sp := rfl
@[simp] theorem setI_stack (s : State) (v : Word) : (s.setI v).stack = s.stack := rfl
@[simp] theorem setI_status (s : State) (v : Word) : (s.setI v).status = s.status := rfl
@[simp] theorem setI_faultKind (s : State) (v : Word) : (s.setI v).faultKind = s.faultKind := rfl
@[simp] theorem setI_faultPc (s : State) (v : Word) : (s.setI v).faultPc = s.faultPc := rfl
@[simp] theorem setI_faultAddr (s : State) (v : Word) : (s.setI v).faultAddr = s.faultAddr := rfl
@[simp] theorem setI_mem (s : State) (v : Word) : (s.setI v).mem = s.mem := rfl
@[simp] theorem setI_display (s : State) (v : Word) : (s.setI v).display = s.display := rfl
@[simp] theorem setI_delay (s : State) (v : Word) : (s.setI v).delay = s.delay := rfl
@[simp] theorem setI_sound (s : State) (v : Word) : (s.setI v).sound = s.sound := rfl
@[simp] theorem setI_keys (s : State) (v : Word) : (s.setI v).keys = s.keys := rfl
@[simp] theorem setI_keyEvent (s : State) (v : Word) : (s.setI v).keyEvent = s.keyEvent := rfl
@[simp] theorem setI_rand (s : State) (v : Word) : (s.setI v).rand = s.rand := rfl
@[simp] theorem setI_diag (s : State) (v : Word) : (s.setI v).diag = s.diag := rfl
@[simp] theorem setI_highKey (s : State) (v : Word) : (s.setI v).highKey = s.highKey := rfl
@[simp] theorem setI_highDigit (s : State) (v : Word) : (s.setI v).highDigit = s.highDigit := rfl
@[simp] theorem setI_tick (s : State) (v : Word) : (s.setI v).tick = s.tick := rfl
@[simp] theorem setI_reg (s : State) (v : Word) (q : Reg) : (s.setI v).reg q = s.reg q := rfl
@[simp] theorem setI_npc (s : State) (v : Word) : (s.setI v).npc = s.npc := rfl

/-! ### `setPc` -/

@[simp] theorem setPc_x (s : State) (v : Word) : (s.setPc v).x = s.x := rfl
@[simp] theorem setPc_I (s : State) (v : Word) : (s.setPc v).I = s.I := rfl
@[simp] theorem setPc_pc (s : State) (v : Word) : (s.setPc v).pc = v := rfl
@[simp] theorem setPc_sp (s : State) (v : Word) : (s.setPc v).sp = s.sp := rfl
@[simp] theorem setPc_stack (s : State) (v : Word) : (s.setPc v).stack = s.stack := rfl
@[simp] theorem setPc_status (s : State) (v : Word) : (s.setPc v).status = s.status := rfl
@[simp] theorem setPc_faultKind (s : State) (v : Word) : (s.setPc v).faultKind = s.faultKind := rfl
@[simp] theorem setPc_faultPc (s : State) (v : Word) : (s.setPc v).faultPc = s.faultPc := rfl
@[simp] theorem setPc_faultAddr (s : State) (v : Word) : (s.setPc v).faultAddr = s.faultAddr := rfl
@[simp] theorem setPc_mem (s : State) (v : Word) : (s.setPc v).mem = s.mem := rfl
@[simp] theorem setPc_display (s : State) (v : Word) : (s.setPc v).display = s.display := rfl
@[simp] theorem setPc_delay (s : State) (v : Word) : (s.setPc v).delay = s.delay := rfl
@[simp] theorem setPc_sound (s : State) (v : Word) : (s.setPc v).sound = s.sound := rfl
@[simp] theorem setPc_keys (s : State) (v : Word) : (s.setPc v).keys = s.keys := rfl
@[simp] theorem setPc_keyEvent (s : State) (v : Word) : (s.setPc v).keyEvent = s.keyEvent := rfl
@[simp] theorem setPc_rand (s : State) (v : Word) : (s.setPc v).rand = s.rand := rfl
@[simp] theorem setPc_diag (s : State) (v : Word) : (s.setPc v).diag = s.diag := rfl
@[simp] theorem setPc_highKey (s : State) (v : Word) : (s.setPc v).highKey = s.highKey := rfl
@[simp] theorem setPc_highDigit (s : State) (v : Word) : (s.setPc v).highDigit = s.highDigit := rfl
@[simp] theorem setPc_tick (s : State) (v : Word) : (s.setPc v).tick = s.tick := rfl
@[simp] theorem setPc_reg (s : State) (v : Word) (q : Reg) : (s.setPc v).reg q = s.reg q := rfl

/-! ### `advance` -/

@[simp] theorem advance_x (s : State) : (s.advance).x = s.x := rfl
@[simp] theorem advance_I (s : State) : (s.advance).I = s.I := rfl
@[simp] theorem advance_pc (s : State) : (s.advance).pc = s.npc := rfl
@[simp] theorem advance_sp (s : State) : (s.advance).sp = s.sp := rfl
@[simp] theorem advance_stack (s : State) : (s.advance).stack = s.stack := rfl
@[simp] theorem advance_status (s : State) : (s.advance).status = s.status := rfl
@[simp] theorem advance_faultKind (s : State) : (s.advance).faultKind = s.faultKind := rfl
@[simp] theorem advance_faultPc (s : State) : (s.advance).faultPc = s.faultPc := rfl
@[simp] theorem advance_faultAddr (s : State) : (s.advance).faultAddr = s.faultAddr := rfl
@[simp] theorem advance_mem (s : State) : (s.advance).mem = s.mem := rfl
@[simp] theorem advance_display (s : State) : (s.advance).display = s.display := rfl
@[simp] theorem advance_delay (s : State) : (s.advance).delay = s.delay := rfl
@[simp] theorem advance_sound (s : State) : (s.advance).sound = s.sound := rfl
@[simp] theorem advance_keys (s : State) : (s.advance).keys = s.keys := rfl
@[simp] theorem advance_keyEvent (s : State) : (s.advance).keyEvent = s.keyEvent := rfl
@[simp] theorem advance_rand (s : State) : (s.advance).rand = s.rand := rfl
@[simp] theorem advance_diag (s : State) : (s.advance).diag = s.diag := rfl
@[simp] theorem advance_highKey (s : State) : (s.advance).highKey = s.highKey := rfl
@[simp] theorem advance_highDigit (s : State) : (s.advance).highDigit = s.highDigit := rfl
@[simp] theorem advance_tick (s : State) : (s.advance).tick = s.tick := rfl
@[simp] theorem advance_reg (s : State) (q : Reg) : (s.advance).reg q = s.reg q := rfl

/-! ### `takeFault` -/

@[simp] theorem takeFault_x (s : State) (k : FaultKind) (a : Word) : (s.takeFault k a).x = s.x := rfl
@[simp] theorem takeFault_I (s : State) (k : FaultKind) (a : Word) : (s.takeFault k a).I = s.I := rfl
@[simp] theorem takeFault_pc (s : State) (k : FaultKind) (a : Word) : (s.takeFault k a).pc = s.pc := rfl
@[simp] theorem takeFault_sp (s : State) (k : FaultKind) (a : Word) : (s.takeFault k a).sp = s.sp := rfl
@[simp] theorem takeFault_stack (s : State) (k : FaultKind) (a : Word) : (s.takeFault k a).stack = s.stack := rfl
@[simp] theorem takeFault_status (s : State) (k : FaultKind) (a : Word) : (s.takeFault k a).status = .faulted := rfl
@[simp] theorem takeFault_faultKind (s : State) (k : FaultKind) (a : Word) : (s.takeFault k a).faultKind = k := rfl
@[simp] theorem takeFault_faultPc (s : State) (k : FaultKind) (a : Word) : (s.takeFault k a).faultPc = s.pc := rfl
@[simp] theorem takeFault_faultAddr (s : State) (k : FaultKind) (a : Word) : (s.takeFault k a).faultAddr = a := rfl
@[simp] theorem takeFault_mem (s : State) (k : FaultKind) (a : Word) : (s.takeFault k a).mem = s.mem := rfl
@[simp] theorem takeFault_display (s : State) (k : FaultKind) (a : Word) : (s.takeFault k a).display = s.display := rfl
@[simp] theorem takeFault_delay (s : State) (k : FaultKind) (a : Word) : (s.takeFault k a).delay = s.delay := rfl
@[simp] theorem takeFault_sound (s : State) (k : FaultKind) (a : Word) : (s.takeFault k a).sound = s.sound := rfl
@[simp] theorem takeFault_keys (s : State) (k : FaultKind) (a : Word) : (s.takeFault k a).keys = s.keys := rfl
@[simp] theorem takeFault_keyEvent (s : State) (k : FaultKind) (a : Word) : (s.takeFault k a).keyEvent = s.keyEvent := rfl
@[simp] theorem takeFault_rand (s : State) (k : FaultKind) (a : Word) : (s.takeFault k a).rand = s.rand := rfl
@[simp] theorem takeFault_diag (s : State) (k : FaultKind) (a : Word) : (s.takeFault k a).diag = s.diag := rfl
@[simp] theorem takeFault_highKey (s : State) (k : FaultKind) (a : Word) : (s.takeFault k a).highKey = s.highKey := rfl
@[simp] theorem takeFault_highDigit (s : State) (k : FaultKind) (a : Word) : (s.takeFault k a).highDigit = s.highDigit := rfl
@[simp] theorem takeFault_tick (s : State) (k : FaultKind) (a : Word) : (s.takeFault k a).tick = s.tick := rfl
@[simp] theorem takeFault_reg (s : State) (k : FaultKind) (a : Word) (q : Reg) : (s.takeFault k a).reg q = s.reg q := rfl
@[simp] theorem takeFault_npc (s : State) (k : FaultKind) (a : Word) : (s.takeFault k a).npc = s.npc := rfl

/-! ### `emitUnknown` -/

@[simp] theorem emitUnknown_x (s : State) (hi lo : Byte) : (s.emitUnknown hi lo).x = s.x := rfl
@[simp] theorem emitUnknown_I (s : State) (hi lo : Byte) : (s.emitUnknown hi lo).I = s.I := rfl
@[simp] theorem emitUnknown_pc (s : State) (hi lo : Byte) : (s.emitUnknown hi lo).pc = s.pc := rfl
@[simp] theorem emitUnknown_sp (s : State) (hi lo : Byte) : (s.emitUnknown hi lo).sp = s.sp := rfl
@[simp] theorem emitUnknown_stack (s : State) (hi lo : Byte) : (s.emitUnknown hi lo).stack = s.stack := rfl
@[simp] theorem emitUnknown_status (s : State) (hi lo : Byte) : (s.emitUnknown hi lo).status = s.status := rfl
@[simp] theorem emitUnknown_faultKind (s : State) (hi lo : Byte) : (s.emitUnknown hi lo).faultKind = s.faultKind := rfl
@[simp] theorem emitUnknown_faultPc (s : State) (hi lo : Byte) : (s.emitUnknown hi lo).faultPc = s.faultPc := rfl
@[simp] theorem emitUnknown_faultAddr (s : State) (hi lo : Byte) : (s.emitUnknown hi lo).faultAddr = s.faultAddr := rfl
@[simp] theorem emitUnknown_mem (s : State) (hi lo : Byte) : (s.emitUnknown hi lo).mem = s.mem := rfl
@[simp] theorem emitUnknown_display (s : State) (hi lo : Byte) : (s.emitUnknown hi lo).display = s.display := rfl
@[simp] theorem emitUnknown_delay (s : State) (hi lo : Byte) : (s.emitUnknown hi lo).delay = s.delay := rfl
@[simp] theorem emitUnknown_sound (s : State) (hi lo : Byte) : (s.emitUnknown hi lo).sound = s.sound := rfl
@[simp] theorem emitUnknown_keys (s : State) (hi lo : Byte) : (s.emitUnknown hi lo).keys = s.keys := rfl
@[simp] theorem emitUnknown_keyEvent (s : State) (hi lo : Byte) : (s.emitUnknown hi lo).keyEvent = s.keyEvent := rfl
@[simp] theorem emitUnknown_rand (s : State) (hi lo : Byte) : (s.emitUnknown hi lo).rand = s.rand := rfl
@[simp] theorem emitUnknown_diag (s : State) (hi lo : Byte) : (s.emitUnknown hi lo).diag = s.diag ++ [⟨s.pc, hi, lo⟩] := rfl
@[simp] theorem emitUnknown_highKey (s : State) (hi lo : Byte) : (s.emitUnknown hi lo).highKey = s.highKey := rfl
@[simp] theorem emitUnknown_highDigit (s : State) (hi lo : Byte) : (s.emitUnknown hi lo).highDigit = s.highDigit := rfl
@[simp] theorem emitUnknown_tick (s : State) (hi lo : Byte) : (s.emitUnknown hi lo).tick = s.tick := rfl
@[simp] theorem emitUnknown_reg (s : State) (hi lo : Byte) (q : Reg) : (s.emitUnknown hi lo).reg q = s.reg q := rfl
@[simp] theorem emitUnknown_npc (s : State) (hi lo : Byte) : (s.emitUnknown hi lo).npc = s.npc := rfl

/-! ### `setFlagThenReg` -/

@[simp] theorem setFlagThenReg_x (s : State) (r : Reg) (f : Bool) (v : Byte) : (s.setFlagThenReg r f v).x = (s.x.set 15 (flagByte f)).set r.val v := rfl
@[simp] theorem setFlagThenReg_I (s : State) (r : Reg) (f : Bool) (v : Byte) : (s.setFlagThenReg r f v).I = s.I := rfl
@[simp] theorem setFlagThenReg_pc (s : State) (r : Reg) (f : Bool) (v : Byte) : (s.setFlagThenReg r f v).pc = s.pc := rfl
@[simp] theorem setFlagThenReg_sp (s : State) (r : Reg) (f : Bool) (v : Byte) : (s.setFlagThenReg r f v).sp = s.sp := rfl
@[simp] theorem setFlagThenReg_stack (s : State) (r : Reg) (f : Bool) (v : Byte) : (s.setFlagThenReg r f v).stack = s.stack := rfl
@[simp] theorem setFlagThenReg_status (s : State) (r : Reg) (f : Bool) (v : Byte) : (s.setFlagThenReg r f v).status = s.status := rfl
@[simp] theorem setFlagThenReg_faultKind (s : State) (r : Reg) (f : Bool) (v : Byte) : (s.setFlagThenReg r f v).faultKind = s.faultKind := rfl
@[simp] theorem setFlagThenReg_faultPc (s : State) (r : Reg) (f : Bool) (v : Byte) : (s.setFlagThenReg r f v).faultPc = s.faultPc := rfl
@[simp] theorem setFlagThenReg_faultAddr (s : State) (r : Reg) (f : Bool) (v : Byte) : (s.setFlagThenReg r f v).faultAddr = s.faultAddr := rfl
@[simp] theorem setFlagThenReg_mem (s : State) (r : Reg) (f : Bool) (v : Byte) : (s.setFlagThenReg r f v).mem = s.mem := rfl
@[simp] theorem setFlagThenReg_display (s : State) (r : Reg) (f : Bool) (v : Byte) : (s.setFlagThenReg r f v).display = s.display := rfl
@[simp] theorem setFlagThenReg_delay (s : State) (r : Reg) (f : Bool) (v : Byte) : (s.setFlagThenReg r f v).delay = s.delay := rfl
@[simp] theorem setFlagThenReg_sound (s : State) (r : Reg) (f : Bool) (v : Byte) : (s.setFlagThenReg r f v).sound = s.sound := rfl
@[simp] theorem setFlagThenReg_keys (s : State) (r : Reg) (f : Bool) (v : Byte) : (s.setFlagThenReg r f v).keys = s.keys := rfl
@[simp] theorem setFlagThenReg_keyEvent (s : State) (r : Reg) (f : Bool) (v : Byte) : (s.setFlagThenReg r f v).keyEvent = s.keyEvent := rfl
@[simp] theorem setFlagThenReg_rand (s : State) (r : Reg) (f : Bool) (v : Byte) : (s.setFlagThenReg r f v).rand = s.rand := rfl
@[simp] theorem setFlagThenReg_diag (s : State) (r : Reg) (f : Bool) (v : Byte) : (s.setFlagThenReg r f v).diag = s.diag := rfl
@[simp] theorem setFlagThenReg_highKey (s : State) (r : Reg) (f : Bool) (v : Byte) : (s.setFlagThenReg r f v).highKey = s.highKey := rfl
@[simp] theorem setFlagThenReg_highDigit (s : State) (r : Reg) (f : Bool) (v : Byte) : (s.setFlagThenReg r f v).highDigit = s.highDigit := rfl
@[simp] theorem setFlagThenReg_tick (s : State) (r : Reg) (f : Bool) (v : Byte) : (s.setFlagThenReg r f v).tick = s.tick := rfl
@[simp] theorem setFlagThenReg_npc (s : State) (r : Reg) (f : Bool) (v : Byte) : (s.setFlagThenReg r f v).npc = s.npc := rfl

/-! ### `capClear` -/

@[simp] theorem capClear_x (s : State) : (s.capClear).x = s.x := rfl
@[simp] theorem capClear_I (s : State) : (s.capClear).I = s.I := rfl
@[simp] theorem capClear_pc (s : State) : (s.capClear).pc = s.pc := rfl
@[simp] theorem capClear_sp (s : State) : (s.capClear).sp = s.sp := rfl
@[simp] theorem capClear_stack (s : State) : (s.capClear).stack = s.stack := rfl
@[simp] theorem capClear_status (s : State) : (s.capClear).status = s.status := rfl
@[simp] theorem capClear_faultKind (s : State) : (s.capClear).faultKind = s.faultKind := rfl
@[simp] theorem capClear_faultPc (s : State) : (s.capClear).faultPc = s.faultPc := rfl
@[simp] theorem capClear_faultAddr (s : State) : (s.capClear).faultAddr = s.faultAddr := rfl
@[simp] theorem capClear_mem (s : State) : (s.capClear).mem = s.mem := rfl
@[simp] theorem capClear_display (s : State) : (s.capClear).display = Display.clear := rfl
@[simp] theorem capClear_delay (s : State) : (s.capClear).delay = s.delay := rfl
@[simp] theorem capClear_sound (s : State) : (s.capClear).sound = s.sound := rfl
@[simp] theorem capClear_keys (s : State) : (s.capClear).keys = s.keys := rfl
@[simp] theorem capClear_keyEvent (s : State) : (s.capClear).keyEvent = s.keyEvent := rfl
@[simp] theorem capClear_rand (s : State) : (s.capClear).rand = s.rand := rfl
@[simp] theorem capClear_diag (s : State) : (s.capClear).diag = s.diag := rfl
@[simp] theorem capClear_highKey (s : State) : (s.capClear).highKey = s.highKey := rfl
@[simp] theorem capClear_highDigit (s : State) : (s.capClear).highDigit = s.highDigit := rfl
@[simp] theorem capClear_tick (s : State) : (s.capClear).tick = s.tick := rfl
@[simp] theorem capClear_reg (s : State) (q : Reg) : (s.capClear).reg q = s.reg q := rfl
@[simp] theorem capClear_npc (s : State) : (s.capClear).npc = s.npc := rfl

/-! ### `capSetDelay` -/

@[simp] theorem capSetDelay_x (s : State) (v : Byte) : (s.capSetDelay v).x = s.x := rfl
@[simp] theorem capSetDelay_I (s : State) (v : Byte) : (s.capSetDelay v).I = s.I := rfl
@[simp] theorem capSetDelay_pc (s : State) (v : Byte) : (s.capSetDelay v).pc = s.pc := rfl
@[simp] theorem capSetDelay_sp (s : State) (v : Byte) : (s.capSetDelay v).sp = s.sp := rfl
@[simp] theorem capSetDelay_stack (s : State) (v : Byte) : (s.capSetDelay v).stack = s.stack := rfl
@[simp] theorem capSetDelay_status (s : State) (v : Byte) : (s.capSetDelay v).status = s.status := rfl
@[simp] theorem capSetDelay_faultKind (s : State) (v : Byte) : (s.capSetDelay v).faultKind = s.faultKind := rfl
@[simp] theorem capSetDelay_faultPc (s : State) (v : Byte) : (s.capSetDelay v).faultPc = s.faultPc := rfl
@[simp] theorem capSetDelay_faultAddr (s : State) (v : Byte) : (s.capSetDelay v).faultAddr = s.faultAddr := rfl
@[simp] theorem capSetDelay_mem (s : State) (v : Byte) : (s.capSetDelay v).mem = s.mem := rfl
@[simp] theorem capSetDelay_display (s : State) (v : Byte) : (s.capSetDelay v).display = s.display := rfl
@[simp] theorem capSetDelay_delay (s : State) (v : Byte) : (s.capSetDelay v).delay = v := rfl
@[simp] theorem capSetDelay_sound (s : State) (v : Byte) : (s.capSetDelay v).sound = s.sound := rfl
@[simp] theorem capSetDelay_keys (s : State) (v : Byte) : (s.capSetDelay v).keys = s.keys := rfl
@[simp] theorem capSetDelay_keyEvent (s : State) (v : Byte) : (s.capSetDelay v).keyEvent = s.keyEvent := rfl
@[simp] theorem capSetDelay_rand (s : State) (v : Byte) : (s.capSetDelay v).rand = s.rand := rfl
@[simp] theorem capSetDelay_diag (s : State) (v : Byte) : (s.capSetDelay v).diag = s.diag := rfl
@[simp] theorem capSetDelay_highKey (s : State) (v : Byte) : (s.capSetDelay v).highKey = s.highKey := rfl
@[simp] theorem capSetDelay_highDigit (s : State) (v : Byte) : (s.capSetDelay v).highDigit = s.highDigit := rfl
@[simp] theorem capSetDelay_tick (s : State) (v : Byte) : (s.capSetDelay v).tick = s.tick := rfl
@[simp] theorem capSetDelay_reg (s : State) (v : Byte) (q : Reg) : (s.capSetDelay v).reg q = s.reg q := rfl
@[simp] theorem capSetDelay_npc (s : State) (v : Byte) : (s.capSetDelay v).npc = s.npc := rfl

/-! ### `capSetSound` -/

@[simp] theorem capSetSound_x (s : State) (v : Byte) : (s.capSetSound v).x = s.x := rfl
@[simp] theorem capSetSound_I (s : State) (v : Byte) : (s.capSetSound v).I = s.I := rfl
@[simp] theorem capSetSound_pc (s : State) (v : Byte) : (s.capSetSound v).pc = s.pc := rfl
@[simp] theorem capSetSound_sp (s : State) (v : Byte) : (s.capSetSound v).sp = s.sp := rfl
@[simp] theorem capSetSound_stack (s : State) (v : Byte) : (s.capSetSound v).stack = s.stack := rfl
@[simp] theorem capSetSound_status (s : State) (v : Byte) : (s.capSetSound v).status = s.status := rfl
@[simp] theorem capSetSound_faultKind (s : State) (v : Byte) : (s.capSetSound v).faultKind = s.faultKind := rfl
@[simp] theorem capSetSound_faultPc (s : State) (v : Byte) : (s.capSetSound v).faultPc = s.faultPc := rfl
@[simp] theorem capSetSound_faultAddr (s : State) (v : Byte) : (s.capSetSound v).faultAddr = s.faultAddr := rfl
@[simp] theorem capSetSound_mem (s : State) (v : Byte) : (s.capSetSound v).mem = s.mem := rfl
@[simp] theorem capSetSound_display (s : State) (v : Byte) : (s.capSetSound v).display = s.display := rfl
@[simp] theorem capSetSound_delay (s : State) (v : Byte) : (s.capSetSound v).delay = s.delay := rfl
@[simp] theorem capSetSound_sound (s : State) (v : Byte) : (s.capSetSound v).sound = v := rfl
@[simp] theorem capSetSound_keys (s : State) (v : Byte) : (s.capSetSound v).keys = s.keys := rfl
@[simp] theorem capSetSound_keyEvent (s : State) (v : Byte) : (s.capSetSound v).keyEvent = s.keyEvent := rfl
@[simp] theorem capSetSound_rand (s : State) (v : Byte) : (s.capSetSound v).rand = s.rand := rfl
@[simp] theorem capSetSound_diag (s : State) (v : Byte) : (s.capSetSound v).diag = s.diag := rfl
@[simp] theorem capSetSound_highKey (s : State) (v : Byte) : (s.capSetSound v).highKey = s.highKey := rfl
@[simp] theorem capSetSound_highDigit (s : State) (v : Byte) : (s.capSetSound v).highDigit = s.highDigit := rfl
@[simp] theorem capSetSound_tick (s : State) (v : Byte) : (s.capSetSound v).tick = s.tick := rfl
@[simp] theorem capSetSound_reg (s : State) (v : Byte) (q : Reg) : (s.capSetSound v).reg q = s.reg q := rfl
@[simp] theorem capSetSound_npc (s : State) (v : Byte) : (s.capSetSound v).npc = s.npc := rfl

/-! ### `envMove` -/

@[simp] theorem envMove_x (s : State) : (s.envMove).x = s.x := rfl
@[simp] theorem envMove_I (s : State) : (s.envMove).I = s.I := rfl
@[simp] theorem envMove_pc (s : State) : (s.envMove).pc = s.pc := rfl
@[simp] theorem envMove_sp (s : State) : (s.envMove).sp = s.sp := rfl
@[simp] theorem envMove_stack (s : State) : (s.envMove).stack = s.stack := rfl
@[simp] theorem envMove_status (s : State) : (s.envMove).status = s.status := rfl
@[simp] theorem envMove_faultKind (s : State) : (s.envMove).faultKind = s.faultKind := rfl
@[simp] theorem envMove_faultPc (s : State) : (s.envMove).faultPc = s.faultPc := rfl
@[simp] theorem envMove_faultAddr (s : State) : (s.envMove).faultAddr = s.faultAddr := rfl
@[simp] theorem envMove_mem (s : State) : (s.envMove).mem = s.mem := rfl
@[simp] theorem envMove_display (s : State) : (s.envMove).display = s.display := rfl
@[simp] theorem envMove_delay (s : State) : (s.envMove).delay = decayed s.delay (Config.delayDecay s.tick) := rfl
@[simp] theorem envMove_sound (s : State) : (s.envMove).sound = decayed s.sound (Config.soundDecay s.tick) := rfl
@[simp] theorem envMove_keys (s : State) : (s.envMove).keys = Config.keysDown s.tick := rfl
@[simp] theorem envMove_keyEvent (s : State) : (s.envMove).keyEvent = Config.keyPress s.tick := rfl
@[simp] theorem envMove_rand (s : State) : (s.envMove).rand = Config.randByte s.tick := rfl
@[simp] theorem envMove_diag (s : State) : (s.envMove).diag = s.diag := rfl
@[simp] theorem envMove_highKey (s : State) : (s.envMove).highKey = Config.highKeyDown s.tick := rfl
@[simp] theorem envMove_highDigit (s : State) : (s.envMove).highDigit = Config.highDigitAddr s.tick := rfl
@[simp] theorem envMove_tick (s : State) : (s.envMove).tick = s.tick + 1 := rfl
@[simp] theorem envMove_reg (s : State) (q : Reg) : (s.envMove).reg q = s.reg q := rfl
@[simp] theorem envMove_npc (s : State) : (s.envMove).npc = s.npc := rfl

/-! ### `hostReset` -/

@[simp] theorem hostReset_x (s : State) : (s.hostReset).x = Vector.replicate 16 0 := rfl
@[simp] theorem hostReset_I (s : State) : (s.hostReset).I = 0 := rfl
@[simp] theorem hostReset_pc (s : State) : (s.hostReset).pc = Config.progBase := rfl
@[simp] theorem hostReset_sp (s : State) : (s.hostReset).sp = 0 := rfl
@[simp] theorem hostReset_stack (s : State) : (s.hostReset).stack = Vector.replicate 16 0 := rfl
@[simp] theorem hostReset_status (s : State) : (s.hostReset).status = .running := rfl
@[simp] theorem hostReset_faultKind (s : State) : (s.hostReset).faultKind = .none := rfl
@[simp] theorem hostReset_faultPc (s : State) : (s.hostReset).faultPc = 0 := rfl
@[simp] theorem hostReset_faultAddr (s : State) : (s.hostReset).faultAddr = 0 := rfl
@[simp] theorem hostReset_mem (s : State) : (s.hostReset).mem = s.mem := rfl
@[simp] theorem hostReset_display (s : State) : (s.hostReset).display = s.display := rfl
@[simp] theorem hostReset_delay (s : State) : (s.hostReset).delay = s.delay := rfl
@[simp] theorem hostReset_sound (s : State) : (s.hostReset).sound = s.sound := rfl
@[simp] theorem hostReset_keys (s : State) : (s.hostReset).keys = s.keys := rfl
@[simp] theorem hostReset_keyEvent (s : State) : (s.hostReset).keyEvent = s.keyEvent := rfl
@[simp] theorem hostReset_rand (s : State) : (s.hostReset).rand = s.rand := rfl
@[simp] theorem hostReset_diag (s : State) : (s.hostReset).diag = s.diag := rfl
@[simp] theorem hostReset_highKey (s : State) : (s.hostReset).highKey = s.highKey := rfl
@[simp] theorem hostReset_highDigit (s : State) : (s.hostReset).highDigit = s.highDigit := rfl
@[simp] theorem hostReset_tick (s : State) : (s.hostReset).tick = s.tick := rfl

/-! ### `setMem` -/

@[simp] theorem setMem_x (s : State) (m : Memory) : (s.setMem m).x = s.x := rfl
@[simp] theorem setMem_I (s : State) (m : Memory) : (s.setMem m).I = s.I := rfl
@[simp] theorem setMem_pc (s : State) (m : Memory) : (s.setMem m).pc = s.pc := rfl
@[simp] theorem setMem_sp (s : State) (m : Memory) : (s.setMem m).sp = s.sp := rfl
@[simp] theorem setMem_stack (s : State) (m : Memory) : (s.setMem m).stack = s.stack := rfl
@[simp] theorem setMem_status (s : State) (m : Memory) : (s.setMem m).status = s.status := rfl
@[simp] theorem setMem_faultKind (s : State) (m : Memory) : (s.setMem m).faultKind = s.faultKind := rfl
@[simp] theorem setMem_faultPc (s : State) (m : Memory) : (s.setMem m).faultPc = s.faultPc := rfl
@[simp] theorem setMem_faultAddr (s : State) (m : Memory) : (s.setMem m).faultAddr = s.faultAddr := rfl
@[simp] theorem setMem_mem (s : State) (m : Memory) : (s.setMem m).mem = m := rfl
@[simp] theorem setMem_display (s : State) (m : Memory) : (s.setMem m).display = s.display := rfl
@[simp] theorem setMem_delay (s : State) (m : Memory) : (s.setMem m).delay = s.delay := rfl
@[simp] theorem setMem_sound (s : State) (m : Memory) : (s.setMem m).sound = s.sound := rfl
@[simp] theorem setMem_keys (s : State) (m : Memory) : (s.setMem m).keys = s.keys := rfl
@[simp] theorem setMem_keyEvent (s : State) (m : Memory) : (s.setMem m).keyEvent = s.keyEvent := rfl
@[simp] theorem setMem_rand (s : State) (m : Memory) : (s.setMem m).rand = s.rand := rfl
@[simp] theorem setMem_diag (s : State) (m : Memory) : (s.setMem m).diag = s.diag := rfl
@[simp] theorem setMem_highKey (s : State) (m : Memory) : (s.setMem m).highKey = s.highKey := rfl
@[simp] theorem setMem_highDigit (s : State) (m : Memory) : (s.setMem m).highDigit = s.highDigit := rfl
@[simp] theorem setMem_tick (s : State) (m : Memory) : (s.setMem m).tick = s.tick := rfl
@[simp] theorem setMem_reg (s : State) (m : Memory) (q : Reg) : (s.setMem m).reg q = s.reg q := rfl
@[simp] theorem setMem_npc (s : State) (m : Memory) : (s.setMem m).npc = s.npc := rfl

/-! ### `setCallStack` -/

@[simp] theorem setCallStack_x (s : State) (p : Fin 17) (k : Vector Word 16) : (s.setCallStack p k).x = s.x := rfl
@[simp] theorem setCallStack_I (s : State) (p : Fin 17) (k : Vector Word 16) : (s.setCallStack p k).I = s.I := rfl
@[simp] theorem setCallStack_pc (s : State) (p : Fin 17) (k : Vector Word 16) : (s.setCallStack p k).pc = s.pc := rfl
@[simp] theorem setCallStack_sp (s : State) (p : Fin 17) (k : Vector Word 16) : (s.setCallStack p k).sp = p := rfl
@[simp] theorem setCallStack_stack (s : State) (p : Fin 17) (k : Vector Word 16) : (s.setCallStack p k).stack = k := rfl
@[simp] theorem setCallStack_status (s : State) (p : Fin 17) (k : Vector Word 16) : (s.setCallStack p k).status = s.status := rfl
@[simp] theorem setCallStack_faultKind (s : State) (p : Fin 17) (k : Vector Word 16) : (s.setCallStack p k).faultKind = s.faultKind := rfl
@[simp] theorem setCallStack_faultPc (s : State) (p : Fin 17) (k : Vector Word 16) : (s.setCallStack p k).faultPc = s.faultPc := rfl
@[simp] theorem setCallStack_faultAddr (s : State) (p : Fin 17) (k : Vector Word 16) : (s.setCallStack p k).faultAddr = s.faultAddr := rfl
@[simp] theorem setCallStack_mem (s : State) (p : Fin 17) (k : Vector Word 16) : (s.setCallStack p k).mem = s.mem := rfl
@[simp] theorem setCallStack_display (s : State) (p : Fin 17) (k : Vector Word 16) : (s.setCallStack p k).display = s.display := rfl
@[simp] theorem setCallStack_delay (s : State) (p : Fin 17) (k : Vector Word 16) : (s.setCallStack p k).delay = s.delay := rfl
@[simp] theorem setCallStack_sound (s : State) (p : Fin 17) (k : Vector Word 16) : (s.setCallStack p k).sound = s.sound := rfl
@[simp] theorem setCallStack_keys (s : State) (p : Fin 17) (k : Vector Word 16) : (s.setCallStack p k).keys = s.keys := rfl
@[simp] theorem setCallStack_keyEvent (s : State) (p : Fin 17) (k : Vector Word 16) : (s.setCallStack p k).keyEvent = s.keyEvent := rfl
@[simp] theorem setCallStack_rand (s : State) (p : Fin 17) (k : Vector Word 16) : (s.setCallStack p k).rand = s.rand := rfl
@[simp] theorem setCallStack_diag (s : State) (p : Fin 17) (k : Vector Word 16) : (s.setCallStack p k).diag = s.diag := rfl
@[simp] theorem setCallStack_highKey (s : State) (p : Fin 17) (k : Vector Word 16) : (s.setCallStack p k).highKey = s.highKey := rfl
@[simp] theorem setCallStack_highDigit (s : State) (p : Fin 17) (k : Vector Word 16) : (s.setCallStack p k).highDigit = s.highDigit := rfl
@[simp] theorem setCallStack_tick (s : State) (p : Fin 17) (k : Vector Word 16) : (s.setCallStack p k).tick = s.tick := rfl
@[simp] theorem setCallStack_reg (s : State) (p : Fin 17) (k : Vector Word 16) (q : Reg) : (s.setCallStack p k).reg q = s.reg q := rfl
@[simp] theorem setCallStack_npc (s : State) (p : Fin 17) (k : Vector Word 16) : (s.setCallStack p k).npc = s.npc := rfl

/-! ### `setDisplay` -/

@[simp] theorem setDisplay_x (s : State) (d : Display) : (s.setDisplay d).x = s.x := rfl
@[simp] theorem setDisplay_I (s : State) (d : Display) : (s.setDisplay d).I = s.I := rfl
@[simp] theorem setDisplay_pc (s : State) (d : Display) : (s.setDisplay d).pc = s.pc := rfl
@[simp] theorem setDisplay_sp (s : State) (d : Display) : (s.setDisplay d).sp = s.sp := rfl
@[simp] theorem setDisplay_stack (s : State) (d : Display) : (s.setDisplay d).stack = s.stack := rfl
@[simp] theorem setDisplay_status (s : State) (d : Display) : (s.setDisplay d).status = s.status := rfl
@[simp] theorem setDisplay_faultKind (s : State) (d : Display) : (s.setDisplay d).faultKind = s.faultKind := rfl
@[simp] theorem setDisplay_faultPc (s : State) (d : Display) : (s.setDisplay d).faultPc = s.faultPc := rfl
@[simp] theorem setDisplay_faultAddr (s : State) (d : Display) : (s.setDisplay d).faultAddr = s.faultAddr := rfl
@[simp] theorem setDisplay_mem (s : State) (d : Display) : (s.setDisplay d).mem = s.mem := rfl
@[simp] theorem setDisplay_display (s : State) (d : Display) : (s.setDisplay d).display = d := rfl
@[simp] theorem setDisplay_delay (s : State) (d : Display) : (s.setDisplay d).delay = s.delay := rfl
@[simp] theorem setDisplay_sound (s : State) (d : Display) : (s.setDisplay d).sound = s.sound := rfl
@[simp] theorem setDisplay_keys (s : State) (d : Display) : (s.setDisplay d).keys = s.keys := rfl
@[simp] theorem setDisplay_keyEvent (s : State) (d : Display) : (s.setDisplay d).keyEvent = s.keyEvent := rfl
@[simp] theorem setDisplay_rand (s : State) (d : Display) : (s.setDisplay d).rand = s.rand := rfl
@[simp] theorem setDisplay_diag (s : State) (d : Display) : (s.setDisplay d).diag = s.diag := rfl
@[simp] theorem setDisplay_highKey (s : State) (d : Display) : (s.setDisplay d).highKey = s.highKey := rfl
@[simp] theorem setDisplay_highDigit (s : State) (d : Display) : (s.setDisplay d).highDigit = s.highDigit := rfl
@[simp] theorem setDisplay_tick (s : State) (d : Display) : (s.setDisplay d).tick = s.tick := rfl
@[simp] theorem setDisplay_reg (s : State) (d : Display) (q : Reg) : (s.setDisplay d).reg q = s.reg q := rfl
@[simp] theorem setDisplay_npc (s : State) (d : Display) : (s.setDisplay d).npc = s.npc := rfl

/-! ### `setKeyEvent` -/

@[simp] theorem setKeyEvent_x (s : State) (e : Option (Fin 16)) : (s.setKeyEvent e).x = s.x := rfl
@[simp] theorem setKeyEvent_I (s : State) (e : Option (Fin 16)) : (s.setKeyEvent e).I = s.I := rfl
@[simp] theorem setKeyEvent_pc (s : State) (e : Option (Fin 16)) : (s.setKeyEvent e).pc = s.pc := rfl
@[simp] theorem setKeyEvent_sp (s : State) (e : Option (Fin 16)) : (s.setKeyEvent e).sp = s.sp := rfl
@[simp] theorem setKeyEvent_stack (s : State) (e : Option (Fin 16)) : (s.setKeyEvent e).stack = s.stack := rfl
@[simp] theorem setKeyEvent_status (s : State) (e : Option (Fin 16)) : (s.setKeyEvent e).status = s.status := rfl
@[simp] theorem setKeyEvent_faultKind (s : State) (e : Option (Fin 16)) : (s.setKeyEvent e).faultKind = s.faultKind := rfl
@[simp] theorem setKeyEvent_faultPc (s : State) (e : Option (Fin 16)) : (s.setKeyEvent e).faultPc = s.faultPc := rfl
@[simp] theorem setKeyEvent_faultAddr (s : State) (e : Option (Fin 16)) : (s.setKeyEvent e).faultAddr = s.faultAddr := rfl
@[simp] theorem setKeyEvent_mem (s : State) (e : Option (Fin 16)) : (s.setKeyEvent e).mem = s.mem := rfl
@[simp] theorem setKeyEvent_display (s : State) (e : Option (Fin 16)) : (s.setKeyEvent e).display = s.display := rfl
@[simp] theorem setKeyEvent_delay (s : State) (e : Option (Fin 16)) : (s.setKeyEvent e).delay = s.delay := rfl
@[simp] theorem setKeyEvent_sound (s : State) (e : Option (Fin 16)) : (s.setKeyEvent e).sound = s.sound := rfl
@[simp] theorem setKeyEvent_keys (s : State) (e : Option (Fin 16)) : (s.setKeyEvent e).keys = s.keys := rfl
@[simp] theorem setKeyEvent_keyEvent (s : State) (e : Option (Fin 16)) : (s.setKeyEvent e).keyEvent = e := rfl
@[simp] theorem setKeyEvent_rand (s : State) (e : Option (Fin 16)) : (s.setKeyEvent e).rand = s.rand := rfl
@[simp] theorem setKeyEvent_diag (s : State) (e : Option (Fin 16)) : (s.setKeyEvent e).diag = s.diag := rfl
@[simp] theorem setKeyEvent_highKey (s : State) (e : Option (Fin 16)) : (s.setKeyEvent e).highKey = s.highKey := rfl
@[simp] theorem setKeyEvent_highDigit (s : State) (e : Option (Fin 16)) : (s.setKeyEvent e).highDigit = s.highDigit := rfl
@[simp] theorem setKeyEvent_tick (s : State) (e : Option (Fin 16)) : (s.setKeyEvent e).tick = s.tick := rfl
@[simp] theorem setKeyEvent_reg (s : State) (e : Option (Fin 16)) (q : Reg) : (s.setKeyEvent e).reg q = s.reg q := rfl
@[simp] theorem setKeyEvent_npc (s : State) (e : Option (Fin 16)) : (s.setKeyEvent e).npc = s.npc := rfl

/-! ### `capDraw` -/

@[simp] theorem capDraw_x (s : State) (rows : List Byte) (a b : Byte) : (s.capDraw rows a b).1.x = s.x := rfl
@[simp] theorem capDraw_I (s : State) (rows : List Byte) (a b : Byte) : (s.capDraw rows a b).1.I = s.I := rfl
@[simp] theorem capDraw_pc (s : State) (rows : List Byte) (a b : Byte) : (s.capDraw rows a b).1.pc = s.pc := rfl
@[simp] theorem capDraw_sp (s : State) (rows : List Byte) (a b : Byte) : (s.capDraw rows a b).1.sp = s.sp := rfl
@[simp] theorem capDraw_stack (s : State) (rows : List Byte) (a b : Byte) : (s.capDraw rows a b).1.stack = s.stack := rfl
@[simp] theorem capDraw_status (s : State) (rows : List Byte) (a b : Byte) : (s.capDraw rows a b).1.status = s.status := rfl
@[simp] theorem capDraw_faultKind (s : State) (rows : List Byte) (a b : Byte) : (s.capDraw rows a b).1.faultKind = s.faultKind := rfl
@[simp] theorem capDraw_faultPc (s : State) (rows : List Byte) (a b : Byte) : (s.capDraw rows a b).1.faultPc = s.faultPc := rfl
@[simp] theorem capDraw_faultAddr (s : State) (rows : List Byte) (a b : Byte) : (s.capDraw rows a b).1.faultAddr = s.faultAddr := rfl
@[simp] theorem capDraw_mem (s : State) (rows : List Byte) (a b : Byte) : (s.capDraw rows a b).1.mem = s.mem := rfl
@[simp] theorem capDraw_delay (s : State) (rows : List Byte) (a b : Byte) : (s.capDraw rows a b).1.delay = s.delay := rfl
@[simp] theorem capDraw_sound (s : State) (rows : List Byte) (a b : Byte) : (s.capDraw rows a b).1.sound = s.sound := rfl
@[simp] theorem capDraw_keys (s : State) (rows : List Byte) (a b : Byte) : (s.capDraw rows a b).1.keys = s.keys := rfl
@[simp] theorem capDraw_keyEvent (s : State) (rows : List Byte) (a b : Byte) : (s.capDraw rows a b).1.keyEvent = s.keyEvent := rfl
@[simp] theorem capDraw_rand (s : State) (rows : List Byte) (a b : Byte) : (s.capDraw rows a b).1.rand = s.rand := rfl
@[simp] theorem capDraw_diag (s : State) (rows : List Byte) (a b : Byte) : (s.capDraw rows a b).1.diag = s.diag := rfl
@[simp] theorem capDraw_highKey (s : State) (rows : List Byte) (a b : Byte) : (s.capDraw rows a b).1.highKey = s.highKey := rfl
@[simp] theorem capDraw_highDigit (s : State) (rows : List Byte) (a b : Byte) : (s.capDraw rows a b).1.highDigit = s.highDigit := rfl
@[simp] theorem capDraw_tick (s : State) (rows : List Byte) (a b : Byte) : (s.capDraw rows a b).1.tick = s.tick := rfl
@[simp] theorem capDraw_reg (s : State) (rows : List Byte) (a b : Byte) (q : Reg) : (s.capDraw rows a b).1.reg q = s.reg q := rfl
@[simp] theorem capDraw_npc (s : State) (rows : List Byte) (a b : Byte) : (s.capDraw rows a b).1.npc = s.npc := rfl

/-! ### General registers -/

/-- A register reads what was written to it. -/
@[simp] theorem reg_setReg_self (s : State) (r : Reg) (v : Byte) : (s.setReg r v).reg r = v := by
  simp [reg, setReg]

/-- A write leaves every other register alone (R20). -/
@[simp] theorem reg_setReg_ne (s : State) {r q : Reg} (v : Byte) (h : q ≠ r) : (s.setReg r v).reg q = s.reg q := by
  have hv : r.val ≠ q.val := fun e => h (Fin.ext e.symm)
  simp [reg, setReg, Vector.getElem_set_ne _ _ hv]

theorem reg_setReg (s : State) (r q : Reg) (v : Byte) :
    (s.setReg r v).reg q = if q = r then v else s.reg q := by
  by_cases h : q = r
  · subst h; simp
  · simp [h]

/-- The destination is written last (R141). -/
@[simp] theorem reg_setFlagThenReg_self (s : State) (r : Reg) (f : Bool) (v : Byte) :
    (s.setFlagThenReg r f v).reg r = v := by
  simp [setFlagThenReg]

/-- The flag stays when register 15 is not the destination (R141). -/
@[simp] theorem reg_setFlagThenReg_flag (s : State) {r : Reg} (f : Bool) (v : Byte) (h : r ≠ flagReg) :
    (s.setFlagThenReg r f v).reg flagReg = flagByte f := by
  simp [setFlagThenReg, reg_setReg_ne _ _ h.symm]

/-- No other register changes. -/
theorem reg_setFlagThenReg_ne (s : State) {r q : Reg} (f : Bool) (v : Byte) (h : q ≠ r) (hf : q ≠ flagReg) :
    (s.setFlagThenReg r f v).reg q = s.reg q := by
  simp [setFlagThenReg, h, hf]

/-! ### The status port -/

@[simp] theorem statusPort_status (s : State) : s.statusPort.status = s.status := rfl
@[simp] theorem statusPort_faultKind (s : State) : s.statusPort.faultKind = s.faultKind := rfl
@[simp] theorem statusPort_faultPc (s : State) : s.statusPort.faultPc = s.faultPc := rfl
@[simp] theorem statusPort_faultAddr (s : State) : s.statusPort.faultAddr = s.faultAddr := rfl
@[simp] theorem statusPort_x (s : State) : s.statusPort.x = s.x := rfl
@[simp] theorem statusPort_I (s : State) : s.statusPort.I = s.I := rfl
@[simp] theorem statusPort_pc (s : State) : s.statusPort.pc = s.pc := rfl
@[simp] theorem statusPort_sp (s : State) : s.statusPort.sp = s.sp := rfl
@[simp] theorem statusPort_stack (s : State) : s.statusPort.stack = s.stack := rfl

end Sys2Proof.Machine.State
end

