-- ==== Sys2Proof/Laws/Ops.lean ====
section
/-! SUPPORT. One lemma for each shared operation that says once everything it can do: the memory requests, the call stack,
the register range of `SAVE_REGS` and `RESTORE_REGS`, a raised fault, the fetch. -/

namespace Sys2Proof.Machine

namespace State

/-! ### Memory requests (R53, R54) -/

theorem memRead_cases (s : State) (addr : Word) (n : Nat) :
    (addr.toNat + n > 4096 ∧ s.memRead addr n = none) ∨
    (addr.toNat + n ≤ 4096 ∧ s.memRead addr n = some (s.mem.readBytes addr.toNat n)) := by
  unfold memRead
  split
  · exact .inl ⟨‹_›, rfl⟩
  · exact .inr ⟨Nat.le_of_not_gt ‹_›, rfl⟩

theorem memWrite_cases (s : State) (addr : Word) (v : List Byte) :
    (addr.toNat + v.length > 4096 ∧ s.memWrite addr v = none) ∨
    (addr.toNat + v.length ≤ 4096 ∧ s.memWrite addr v = some (s.setMem (s.mem.writeBytes addr.toNat v))) := by
  unfold memWrite
  split
  · exact .inl ⟨‹_›, rfl⟩
  · exact .inr ⟨Nat.le_of_not_gt ‹_›, rfl⟩

/-- A step that reads either raises `OutOfBounds` or goes on with the bytes. -/
theorem withRead_cases (s : State) (addr : Word) (n : Nat) (k : List Byte → Result) :
    (addr.toNat + n > 4096 ∧ s.withRead addr n k = .next (s.takeFault .outOfBounds addr)) ∨
    (addr.toNat + n ≤ 4096 ∧ s.withRead addr n k = k (s.mem.readBytes addr.toNat n)) := by
  rcases memRead_cases s addr n with ⟨h, e⟩ | ⟨h, e⟩
  · exact .inl ⟨h, by simp [withRead, e, raise]⟩
  · exact .inr ⟨h, by simp [withRead, e]⟩

/-- A step that writes either raises `OutOfBounds`, nothing written, or goes on with the bytes stored. -/
theorem withWrite_cases (s : State) (addr : Word) (v : List Byte) (k : State → Result) :
    (addr.toNat + v.length > 4096 ∧ s.withWrite addr v k = .next (s.takeFault .outOfBounds addr)) ∨
    (addr.toNat + v.length ≤ 4096 ∧
      s.withWrite addr v k = k (s.setMem (s.mem.writeBytes addr.toNat v))) := by
  rcases memWrite_cases s addr v with ⟨h, e⟩ | ⟨h, e⟩
  · exact .inl ⟨h, by simp [withWrite, e, raise]⟩
  · exact .inr ⟨h, by simp [withWrite, e]⟩

/-- The fetch (R110): refused exactly when `pc + 2 > 4096`. -/
theorem fetch_cases (s : State) :
    (s.pc.toNat + 2 > 4096 ∧ s.fetch = none) ∨
    (s.pc.toNat + 2 ≤ 4096 ∧ s.fetch = some (s.mem.read s.pc.toNat, s.mem.read (s.pc.toNat + 1))) := by
  rcases memRead_cases s s.pc 2 with ⟨h, e⟩ | ⟨h, e⟩
  · exact .inl ⟨h, by simp [fetch, e]⟩
  · exact .inr ⟨h, by simp [fetch, e, Memory.readBytes]⟩

/-! ### The call stack (R29) -/

theorem push_cases (s : State) (v : Word) :
    (s.sp.val = 16 ∧ s.push v = none) ∨
    (∃ h : s.sp.val < 16,
      s.push v = some (s.setCallStack ⟨s.sp.val + 1, Nat.succ_lt_succ h⟩ (s.stack.set s.sp.val v))) := by
  by_cases h : s.sp.val < 16
  · exact .inr ⟨h, by simp [push, h]⟩
  · exact .inl ⟨by omega, by simp [push, h]⟩

theorem pop_cases (s : State) :
    (s.sp.val = 0 ∧ s.pop = none) ∨
    (∃ _ : 0 < s.sp.val,
      s.pop = some (s.stack[s.sp.val - 1], s.setCallStack ⟨s.sp.val - 1, by omega⟩ s.stack)) := by
  by_cases h : 0 < s.sp.val
  · exact .inr ⟨h, by simp [pop, h]⟩
  · exact .inl ⟨by omega, by simp [pop, h]⟩

/-! ### Register ranges (R165, R166) -/

@[simp] theorem length_firstRegs (s : State) (x : Reg) : (s.firstRegs (regCount x)).length = x.val + 1 := by
  simp [firstRegs, regCount]

@[simp] theorem getElem_firstRegs (s : State) (x : Reg) (k : Nat) (h : k < (s.firstRegs (regCount x)).length) :
    (s.firstRegs (regCount x))[k] = s.reg ⟨k, by rw [length_firstRegs] at h; omega⟩ := by
  simp [firstRegs, reg]

/-- A range write changes general registers only. -/
theorem setRegsFrom_eq (s : State) (k : Nat) (bs : List Byte) :
    s.setRegsFrom k bs = { s with x := (s.setRegsFrom k bs).x } := by
  induction bs generalizing s k with
  | nil => rfl
  | cons b bs ih =>
    rw [setRegsFrom, ih]
    split <;> rfl

/-- Register `q` receives byte `q - k` when the range reaches it. -/
theorem reg_setRegsFrom (s : State) (k : Nat) (bs : List Byte) (q : Reg) :
    (s.setRegsFrom k bs).reg q = if h : k ≤ q.val ∧ q.val < k + bs.length then bs[q.val - k] else s.reg q := by
  induction bs generalizing s k with
  | nil => simp [setRegsFrom]
  | cons b bs ih =>
    rw [setRegsFrom, ih]
    by_cases hq : k + 1 ≤ q.val ∧ q.val < k + 1 + bs.length
    · have e : q.val - k = q.val - (k + 1) + 1 := by omega
      have h2 : k ≤ q.val ∧ q.val < k + (b :: bs).length := by simp; omega
      simp only [hq, h2, and_self, dite_true, e, List.getElem_cons_succ]
    · simp only [hq, dite_false]
      by_cases hk : k = q.val
      · have hlt : k < 16 := by omega
        have e : q = ⟨k, hlt⟩ := Fin.ext hk.symm
        subst e
        simp [hlt]
      · have h2 : ¬(k ≤ q.val ∧ q.val < k + (b :: bs).length) := by simp; omega
        simp only [h2, dite_false]
        split
        · exact reg_setReg_ne _ _ fun e => hk (by rw [e])
        · rfl

end State

/-! ### The program counter -/

/-- `npc` is `pc + 2` (R26). -/
theorem State.npc_eq (s : State) : s.npc = s.pc + 2 := rfl

/-- A taken skip goes to `pc + 4` (R26, R129). -/
theorem State.npc_add_two (s : State) : s.npc + 2 = s.pc + 4 := by
  rw [State.npc_eq, BitVec.add_assoc]
  rfl

/-- `zext_16(NNN)` has the value of `NNN` (R85). -/
@[simp] theorem toNat_zextAddr (nnn : Addr12) : (zextAddr nnn).toNat = nnn.toNat := by
  have := nnn.isLt
  rw [zextAddr, BitVec.toNat_setWidth, Nat.mod_eq_of_lt (by omega)]

/-- `zext_16` of a register has the register's value (R7). -/
@[simp] theorem toNat_zextByte (v : Byte) : (zextByte v).toNat = v.toNat := by
  have := v.isLt
  rw [zextByte, BitVec.toNat_setWidth, Nat.mod_eq_of_lt (by omega)]

/-- The indexed target is the exact sum, at most 0x10FE (R124). -/
theorem State.toNat_indexedTarget (s : State) (nnn : Addr12) :
    (s.indexedTarget nnn).toNat = (s.reg 0).toNat + nnn.toNat := by
  have := nnn.isLt
  have := (s.reg 0).isLt
  rw [State.indexedTarget, BitVec.toNat_add, toNat_zextByte, toNat_zextAddr, Nat.mod_eq_of_lt (by omega)]

/-! ### Faults and completed steps -/

/-- Taking a fault writes the record and nothing else (R235, R237). -/
theorem faultTaken_takeFault (s : State) (kind : FaultKind) (addr : Word) :
    FaultTaken kind addr s (s.takeFault kind addr) := by
  simp [FaultTaken, SameRegsBut, SameAddrReg, SameStack, SameOutside, SameMem, SameDisplay, SameTimers, SameInputs,
    SameDiag]

/-- Only `pc` differs after a change of `pc`. -/
theorem onlyRegsAndPc_setPc (s : State) (v : Word) : OnlyRegsAndPc [] s (s.setPc v) := by
  simp [OnlyRegsAndPc, SameRegsBut, SameAddrReg, SameStack, SameStatus, SameOutside, SameMem, SameDisplay, SameTimers,
    SameInputs, SameDiag]

/-- Only the destination and `pc` differ after a register write. -/
theorem onlyRegsAndPc_setReg (s : State) (r : Reg) (v : Byte) : OnlyRegsAndPc [r] s (s.setReg r v).advance := by
  simp +contextual [OnlyRegsAndPc, SameRegsBut, SameAddrReg, SameStack, SameStatus, SameOutside, SameMem, SameDisplay,
    SameTimers, SameInputs, SameDiag]

/-- Only the destination, the flag and `pc` differ after a flag-writing operation (R141). -/
theorem onlyRegsAndPc_setFlagThenReg (s : State) (r : Reg) (f : Bool) (v : Byte) :
    OnlyRegsAndPc [r, flagReg] s (s.setFlagThenReg r f v).advance := by
  simp +contextual [OnlyRegsAndPc, SameRegsBut, SameAddrReg, SameStack, SameStatus, SameOutside, SameMem, SameDisplay,
    SameTimers, SameInputs, SameDiag, State.reg_setFlagThenReg_ne]

end Sys2Proof.Machine
end

