-- ==== Sys2Proof/Laws/Step.lean ====
section
/-! SUPPORT. What one step can do, said once: later proofs cite these and do not unfold `step`. -/

namespace Sys2Proof.Machine

/-- A FAULTED core does nothing (R237). -/
@[simp] theorem step_of_faulted {s : State} (h : s.status = .faulted) : step s = .next s := by
  simp [step, h]

/-- A RUNNING core at whose `pc` an instruction can be fetched runs it, the environment having moved. -/
theorem step_of_fetch {s : State} (h : s.status = .running) (hpc : s.pc.toNat + 2 ≤ 4096) :
    step s = exec (decode (s.mem.read s.pc.toNat) (s.mem.read (s.pc.toNat + 1))) s.envMove := by
  rcases State.fetch_cases s.envMove with ⟨hp, -⟩ | ⟨-, e⟩
  · simp only [State.envMove_pc] at hp
    omega
  · simp [step, h, State.fetchAndRun, e]

/-- A RUNNING core at whose `pc` no instruction can be fetched takes `OutOfBounds(pc)` (R231). -/
theorem step_of_fetch_fault {s : State} (h : s.status = .running) (hpc : s.pc.toNat + 2 > 4096) :
    step s = .next (s.envMove.takeFault .outOfBounds s.pc) := by
  rcases State.fetch_cases s.envMove with ⟨-, e⟩ | ⟨hp, -⟩
  · simp [step, h, State.fetchAndRun, e, State.raise]
  · simp only [State.envMove_pc] at hp
    omega

/-- The three things a step can do. -/
theorem step_cases (s : State) :
    (s.status = .faulted ∧ step s = .next s) ∨
    (s.status = .running ∧ s.pc.toNat + 2 > 4096 ∧ step s = .next (s.envMove.takeFault .outOfBounds s.pc)) ∨
    (s.status = .running ∧ s.pc.toNat + 2 ≤ 4096 ∧
      step s = exec (decode (s.mem.read s.pc.toNat) (s.mem.read (s.pc.toNat + 1))) s.envMove) := by
  cases h : s.status with
  | faulted => exact .inl ⟨rfl, step_of_faulted h⟩
  | running =>
    by_cases hpc : s.pc.toNat + 2 ≤ 4096
    · exact .inr (.inr ⟨rfl, hpc, step_of_fetch h hpc⟩)
    · exact .inr (.inl ⟨rfl, by omega, step_of_fetch_fault h (by omega)⟩)

/-- A run of no steps. -/
theorem run_zero (s : State) : core.run 0 s = .next s := rfl

/-- A run of one step more, from the state the step answers. -/
theorem run_succ {s t : State} (n : Nat) (h : step s = .next t) : core.run (n + 1) s = core.run n t := by
  simp [Host.Core.run, core, h]

/-- A run that answers a state went through the state its first step answers. -/
theorem run_succ_cases {n : Nat} {s t : State} (h : core.run (n + 1) s = .next t) :
    ∃ u, step s = .next u ∧ core.run n u = .next t := by
  cases hs : step s with
  | next u => exact ⟨u, rfl, by rw [← run_succ n hs]; exact h⟩
  | fault f => cases f
  | refused r => simp [Host.Core.run, core, hs] at h

/-- Booting refuses a program that is too long, and else stores the image and resets (R264). -/
theorem State.boot_cases (s : State) (glyphs : Vector (Vector Byte 5) 16) (program : List Byte) :
    (program.length > 3584 ∧ s.boot glyphs program = none) ∨
    (program.length ≤ 3584 ∧ s.boot glyphs program =
      some (s.setMem ((s.mem.placeGlyphs glyphs).writeBytes 0x200 program)).hostReset) := by
  unfold State.boot
  split
  · exact .inl ⟨‹_›, rfl⟩
  · exact .inr ⟨Nat.le_of_not_gt ‹_›, rfl⟩

/-- The memory right after reset is in canonical form. -/
theorem reset_mem_wf : State.reset.mem.wf = true := rfl

end Sys2Proof.Machine
end

