-- ==== Sys2Proof/Laws/Exec.lean ====
section
/-! SUPPORT. What each instruction answers, one lemma an instruction, so that no later proof unfolds a meaning. -/

namespace Sys2Proof.Machine

/-! ### Instructions with one outcome -/

@[simp] theorem exec_sys (nnn : Addr12) (s : State) : exec (.sys nnn) s = .next s.advance := rfl
@[simp] theorem exec_unknown (hi lo : Byte) (s : State) :
    exec (.unknown hi lo) s = .next (s.emitUnknown hi lo).advance := rfl
@[simp] theorem exec_jump (nnn : Addr12) (s : State) : exec (.jump nnn) s = .next (s.setPc (zextAddr nnn)) := rfl
@[simp] theorem exec_jumpOffset (nnn : Addr12) (s : State) :
    exec (.jumpOffset nnn) s = .next (s.setPc (s.indexedTarget nnn)) := rfl
@[simp] theorem exec_skipEqImm (x : Reg) (nn : Byte) (s : State) :
    exec (.skipEqImm x nn) s = .next (s.setPc (if s.reg x == nn then s.npc + 2 else s.npc)) := rfl
@[simp] theorem exec_skipNeqImm (x : Reg) (nn : Byte) (s : State) :
    exec (.skipNeqImm x nn) s = .next (s.setPc (if s.reg x != nn then s.npc + 2 else s.npc)) := rfl
@[simp] theorem exec_skipEqReg (x y : Reg) (s : State) :
    exec (.skipEqReg x y) s = .next (s.setPc (if s.reg x == s.reg y then s.npc + 2 else s.npc)) := rfl
@[simp] theorem exec_skipNeqReg (x y : Reg) (s : State) :
    exec (.skipNeqReg x y) s = .next (s.setPc (if s.reg x != s.reg y then s.npc + 2 else s.npc)) := rfl
@[simp] theorem exec_loadImm (x : Reg) (nn : Byte) (s : State) :
    exec (.loadImm x nn) s = .next (s.setReg x nn).advance := rfl
@[simp] theorem exec_addImm (x : Reg) (nn : Byte) (s : State) :
    exec (.addImm x nn) s = .next (s.setReg x (s.reg x + nn)).advance := rfl
@[simp] theorem exec_move (x y : Reg) (s : State) : exec (.move x y) s = .next (s.setReg x (s.reg y)).advance := rfl
@[simp] theorem exec_or (x y : Reg) (s : State) :
    exec (.or x y) s = .next (s.setReg x (s.reg x ||| s.reg y)).advance := rfl
@[simp] theorem exec_and (x y : Reg) (s : State) :
    exec (.and x y) s = .next (s.setReg x (s.reg x &&& s.reg y)).advance := rfl
@[simp] theorem exec_xor (x y : Reg) (s : State) :
    exec (.xor x y) s = .next (s.setReg x (s.reg x ^^^ s.reg y)).advance := rfl
@[simp] theorem exec_add (x y : Reg) (s : State) :
    exec (.add x y) s =
      .next (s.setFlagThenReg x (carryOut (s.reg x) (s.reg y)) (s.reg x + s.reg y)).advance := rfl
@[simp] theorem exec_sub (x y : Reg) (s : State) :
    exec (.sub x y) s = .next (s.setFlagThenReg x (greater (s.reg x) (s.reg y)) (s.reg x - s.reg y)).advance := rfl
@[simp] theorem exec_shr (x y : Reg) (s : State) :
    exec (.shr x y) s = .next (s.setFlagThenReg x (lowBit (s.reg x)) (s.reg x >>> 1)).advance := rfl
@[simp] theorem exec_subn (x y : Reg) (s : State) :
    exec (.subn x y) s = .next (s.setFlagThenReg x (greater (s.reg y) (s.reg x)) (s.reg y - s.reg x)).advance := rfl
@[simp] theorem exec_shl (x y : Reg) (s : State) :
    exec (.shl x y) s = .next (s.setFlagThenReg x (topBit (s.reg x)) (s.reg x <<< 1)).advance := rfl
@[simp] theorem exec_loadAddrReg (nnn : Addr12) (s : State) :
    exec (.loadAddrReg nnn) s = .next (s.setI (zextAddr nnn)).advance := rfl
@[simp] theorem exec_addToAddr (x : Reg) (s : State) :
    exec (.addToAddr x) s = .next (s.setI (s.I + zextByte (s.reg x))).advance := rfl
@[simp] theorem exec_addrOfDigit (x : Reg) (s : State) :
    exec (.addrOfDigit x) s = .next (s.setI (s.capDigitSprite (s.reg x))).advance := rfl
@[simp] theorem exec_cls (s : State) : exec .cls s = .next s.capClear.advance := rfl
@[simp] theorem exec_randomMask (x : Reg) (nn : Byte) (s : State) :
    exec (.randomMask x nn) s = .next (s.setReg x (s.rand &&& nn)).advance := rfl
@[simp] theorem exec_skipIfPressed (x : Reg) (s : State) :
    exec (.skipIfPressed x) s = .next (s.setPc (if s.capGetKey (s.reg x) then s.npc + 2 else s.npc)) := rfl
@[simp] theorem exec_skipIfNotPressed (x : Reg) (s : State) :
    exec (.skipIfNotPressed x) s = .next (s.setPc (if !s.capGetKey (s.reg x) then s.npc + 2 else s.npc)) := rfl
@[simp] theorem exec_getDelay (x : Reg) (s : State) : exec (.getDelay x) s = .next (s.setReg x s.delay).advance := rfl
@[simp] theorem exec_setDelay (x : Reg) (s : State) :
    exec (.setDelay x) s = .next (s.capSetDelay (s.reg x)).advance := rfl
@[simp] theorem exec_setSound (x : Reg) (s : State) :
    exec (.setSound x) s = .next (s.capSetSound (s.reg x)).advance := rfl

/-! ### Instructions with two outcomes -/

theorem exec_ret_cases (s : State) :
    (s.sp.val = 0 ∧ exec .ret s = .next (s.takeFault .stackUnderflow 0)) ∨
    (∃ _ : 0 < s.sp.val,
      exec .ret s = .next ((s.setCallStack ⟨s.sp.val - 1, by omega⟩ s.stack).setPc (s.stack[s.sp.val - 1]))) := by
  rcases s.pop_cases with ⟨h, e⟩ | ⟨h, e⟩
  · exact .inl ⟨h, by simp [exec, execRet, e, State.raise]⟩
  · exact .inr ⟨h, by simp [exec, execRet, e]⟩

theorem exec_call_cases (nnn : Addr12) (s : State) :
    (s.sp.val = 16 ∧ exec (.call nnn) s = .next (s.takeFault .stackOverflow 0)) ∨
    (∃ h : s.sp.val < 16, exec (.call nnn) s =
      .next ((s.setCallStack ⟨s.sp.val + 1, Nat.succ_lt_succ h⟩ (s.stack.set s.sp.val s.npc)).setPc
        (zextAddr nnn))) := by
  rcases s.push_cases s.npc with ⟨h, e⟩ | ⟨h, e⟩
  · exact .inl ⟨h, by simp [exec, execCall, e, State.raise]⟩
  · exact .inr ⟨h, by simp [exec, execCall, e]⟩

theorem exec_storeBcd_cases (x : Reg) (s : State) :
    (s.I.toNat + 3 > 4096 ∧ exec (.storeBcd x) s = .next (s.takeFault .outOfBounds s.I)) ∨
    (s.I.toNat + 3 ≤ 4096 ∧ exec (.storeBcd x) s =
      .next (s.setMem (s.mem.writeBytes s.I.toNat (bcd (s.reg x)))).advance) :=
  s.withWrite_cases s.I (bcd (s.reg x)) State.finish

theorem exec_saveRegs_cases (x : Reg) (s : State) :
    (s.I.toNat + (x.val + 1) > 4096 ∧ exec (.saveRegs x) s = .next (s.takeFault .outOfBounds s.I)) ∨
    (s.I.toNat + (x.val + 1) ≤ 4096 ∧ exec (.saveRegs x) s =
      .next (s.setMem (s.mem.writeBytes s.I.toNat (s.firstRegs (regCount x)))).advance) := by
  have h := s.withWrite_cases s.I (s.firstRegs (regCount x)) State.finish
  rw [State.length_firstRegs] at h
  exact h

theorem exec_restoreRegs_cases (x : Reg) (s : State) :
    (s.I.toNat + (x.val + 1) > 4096 ∧ exec (.restoreRegs x) s = .next (s.takeFault .outOfBounds s.I)) ∨
    (s.I.toNat + (x.val + 1) ≤ 4096 ∧ exec (.restoreRegs x) s =
      .next (s.setRegsFrom 0 (s.mem.readBytes s.I.toNat (x.val + 1))).advance) :=
  s.withRead_cases s.I (x.val + 1) fun bytes => (s.setRegsFrom 0 bytes).finish

theorem exec_draw_cases (x y : Reg) (n : Nibble) (s : State) :
    (s.I.toNat + n.toNat > 4096 ∧ exec (.draw x y n) s = .next (s.takeFault .outOfBounds s.I)) ∨
    (s.I.toNat + n.toNat ≤ 4096 ∧ exec (.draw x y n) s =
      .next ((s.capDraw (s.mem.readBytes s.I.toNat n.toNat) (s.reg x) (s.reg y)).1.setReg flagReg
        (flagByte (s.capDraw (s.mem.readBytes s.I.toNat n.toNat) (s.reg x) (s.reg y)).2)).advance) :=
  s.withRead_cases s.I n.toNat fun rows =>
    ((s.capDraw rows (s.reg x) (s.reg y)).1.setReg flagReg
      (flagByte (s.capDraw rows (s.reg x) (s.reg y)).2)).finish

theorem exec_waitKey_cases (x : Reg) (s : State) :
    (s.keyEvent = none ∧ exec (.waitKey x) s = .next s) ∨
    (∃ key, s.keyEvent = some key ∧
      exec (.waitKey x) s = .next ((s.setKeyEvent none).setReg x (BitVec.ofNat 8 key.val)).advance) := by
  cases h : s.keyEvent with
  | none => exact .inl ⟨rfl, by simp [exec, execWaitKey, State.waitKeyOutcome, State.capWaitKey, h]⟩
  | some key => exact .inr ⟨key, rfl, by simp [exec, execWaitKey, State.waitKeyOutcome, State.capWaitKey, h]⟩

end Sys2Proof.Machine
end

