-- ==== Sys2Proof/Laws/PerInstr.lean ====
section
/-! SUPPORT. Per-instruction laws. `EncodingMatchesTable`: the encoded word of a well-formed instruction has the fixed
bits that spec/opcode_table.json gives its row. -/

namespace Sys2Proof.Laws

/-- The fixed bit ranges of an instruction's row of spec/opcode_table.json: high bit, low bit, value. -/
def tableFixed : Instr → List (Nat × Nat × Nat)
  | .cls => [(15, 0, 224)]
  | .ret => [(15, 0, 238)]
  | .sys _ => [(15, 12, 0)]
  | .jump _ => [(15, 12, 1)]
  | .call _ => [(15, 12, 2)]
  | .skipEqImm _ _ => [(15, 12, 3)]
  | .skipNeqImm _ _ => [(15, 12, 4)]
  | .skipEqReg _ _ => [(15, 12, 5)]
  | .loadImm _ _ => [(15, 12, 6)]
  | .addImm _ _ => [(15, 12, 7)]
  | .move _ _ => [(3, 0, 0), (15, 12, 8)]
  | .or _ _ => [(3, 0, 1), (15, 12, 8)]
  | .and _ _ => [(3, 0, 2), (15, 12, 8)]
  | .xor _ _ => [(3, 0, 3), (15, 12, 8)]
  | .add _ _ => [(3, 0, 4), (15, 12, 8)]
  | .sub _ _ => [(3, 0, 5), (15, 12, 8)]
  | .shr _ _ => [(3, 0, 6), (15, 12, 8)]
  | .subn _ _ => [(3, 0, 7), (15, 12, 8)]
  | .shl _ _ => [(3, 0, 14), (15, 12, 8)]
  | .skipNeqReg _ _ => [(15, 12, 9)]
  | .loadAddrReg _ => [(15, 12, 10)]
  | .jumpOffset _ => [(15, 12, 11)]
  | .randomMask _ _ => [(15, 12, 12)]
  | .draw _ _ _ => [(15, 12, 13)]
  | .skipIfPressed _ => [(7, 0, 158), (15, 12, 14)]
  | .skipIfNotPressed _ => [(7, 0, 161), (15, 12, 14)]
  | .getDelay _ => [(7, 0, 7), (15, 12, 15)]
  | .waitKey _ => [(7, 0, 10), (15, 12, 15)]
  | .setDelay _ => [(7, 0, 21), (15, 12, 15)]
  | .setSound _ => [(7, 0, 24), (15, 12, 15)]
  | .addToAddr _ => [(7, 0, 30), (15, 12, 15)]
  | .addrOfDigit _ => [(7, 0, 41), (15, 12, 15)]
  | .storeBcd _ => [(7, 0, 51), (15, 12, 15)]
  | .saveRegs _ => [(7, 0, 85), (15, 12, 15)]
  | .restoreRegs _ => [(7, 0, 101), (15, 12, 15)]
  | .unknown _ _ => []

/-- Every fixed bit range of the row holds its value in the encoded word. -/
def EncodingMatchesTable.Statement (i : Instr) : Prop :=
  i.WellFormed → ∀ f ∈ tableFixed i, bits (encode i) f.1 f.2.1 = f.2.2

/-- The fixed bits of format A: the opcode nibble. -/
theorem bits_op_formatA (op : Nat) (h : op < 16) (nnn : Addr12) : bits (formatA op nnn) 15 12 = op := by
  have := nnn.isLt
  simp only [bits, toNat_formatA op h]
  omega

/-- The opcode nibble of formats XI and XF. -/
theorem bits_op_formatXI (op : Nat) (h : op < 16) (x : Reg) (nn : Byte) : bits (formatXI op x nn) 15 12 = op := by
  have := nn.isLt
  simp only [bits, toNat_formatXI op h]
  omega

/-- The low byte of formats XI and XF. -/
theorem bits_lo_formatXI (op : Nat) (h : op < 16) (x : Reg) (nn : Byte) : bits (formatXI op x nn) 7 0 = nn.toNat := by
  have := nn.isLt
  simp only [bits, toNat_formatXI op h]
  omega

/-- The opcode nibble of formats XY, XYF and XYN. -/
theorem bits_op_formatXY (op : Nat) (h : op < 16) (x y : Reg) (n : Nibble) : bits (formatXY op x y n) 15 12 = op := by
  have := n.isLt
  simp only [bits, toNat_formatXY op h]
  omega

/-- The low nibble of formats XY, XYF and XYN. -/
theorem bits_lo_formatXY (op : Nat) (h : op < 16) (x y : Reg) (n : Nibble) :
    bits (formatXY op x y n) 3 0 = n.toNat := by
  have := n.isLt
  simp only [bits, toNat_formatXY op h]
  omega

theorem EncodingMatchesTable.cls : EncodingMatchesTable.Statement .cls := by
  simp [EncodingMatchesTable.Statement, tableFixed, encode, bits]

theorem EncodingMatchesTable.ret : EncodingMatchesTable.Statement .ret := by
  simp [EncodingMatchesTable.Statement, tableFixed, encode, bits]

theorem EncodingMatchesTable.sys (nnn : Addr12) : EncodingMatchesTable.Statement (.sys nnn) := by
  simp [EncodingMatchesTable.Statement, tableFixed, encode, bits_op_formatA]

theorem EncodingMatchesTable.jump (nnn : Addr12) : EncodingMatchesTable.Statement (.jump nnn) := by
  simp [EncodingMatchesTable.Statement, tableFixed, encode, bits_op_formatA]

theorem EncodingMatchesTable.call (nnn : Addr12) : EncodingMatchesTable.Statement (.call nnn) := by
  simp [EncodingMatchesTable.Statement, tableFixed, encode, bits_op_formatA]

theorem EncodingMatchesTable.skipEqImm (x : Reg) (nn : Byte) : EncodingMatchesTable.Statement (.skipEqImm x nn) := by
  simp [EncodingMatchesTable.Statement, tableFixed, encode, bits_op_formatXI]

theorem EncodingMatchesTable.skipNeqImm (x : Reg) (nn : Byte) : EncodingMatchesTable.Statement (.skipNeqImm x nn) := by
  simp [EncodingMatchesTable.Statement, tableFixed, encode, bits_op_formatXI]

theorem EncodingMatchesTable.skipEqReg (x : Reg) (y : Reg) : EncodingMatchesTable.Statement (.skipEqReg x y) := by
  simp [EncodingMatchesTable.Statement, tableFixed, encode, bits_op_formatXY]

theorem EncodingMatchesTable.loadImm (x : Reg) (nn : Byte) : EncodingMatchesTable.Statement (.loadImm x nn) := by
  simp [EncodingMatchesTable.Statement, tableFixed, encode, bits_op_formatXI]

theorem EncodingMatchesTable.addImm (x : Reg) (nn : Byte) : EncodingMatchesTable.Statement (.addImm x nn) := by
  simp [EncodingMatchesTable.Statement, tableFixed, encode, bits_op_formatXI]

theorem EncodingMatchesTable.move (x : Reg) (y : Reg) : EncodingMatchesTable.Statement (.move x y) := by
  simp [EncodingMatchesTable.Statement, tableFixed, encode, bits_op_formatXY, bits_lo_formatXY]

theorem EncodingMatchesTable.or (x : Reg) (y : Reg) : EncodingMatchesTable.Statement (.or x y) := by
  simp [EncodingMatchesTable.Statement, tableFixed, encode, bits_op_formatXY, bits_lo_formatXY]

theorem EncodingMatchesTable.and (x : Reg) (y : Reg) : EncodingMatchesTable.Statement (.and x y) := by
  simp [EncodingMatchesTable.Statement, tableFixed, encode, bits_op_formatXY, bits_lo_formatXY]

theorem EncodingMatchesTable.xor (x : Reg) (y : Reg) : EncodingMatchesTable.Statement (.xor x y) := by
  simp [EncodingMatchesTable.Statement, tableFixed, encode, bits_op_formatXY, bits_lo_formatXY]

theorem EncodingMatchesTable.add (x : Reg) (y : Reg) : EncodingMatchesTable.Statement (.add x y) := by
  simp [EncodingMatchesTable.Statement, tableFixed, encode, bits_op_formatXY, bits_lo_formatXY]

theorem EncodingMatchesTable.sub (x : Reg) (y : Reg) : EncodingMatchesTable.Statement (.sub x y) := by
  simp [EncodingMatchesTable.Statement, tableFixed, encode, bits_op_formatXY, bits_lo_formatXY]

theorem EncodingMatchesTable.shr (x : Reg) (y : Reg) : EncodingMatchesTable.Statement (.shr x y) := by
  simp [EncodingMatchesTable.Statement, tableFixed, encode, bits_op_formatXY, bits_lo_formatXY]

theorem EncodingMatchesTable.subn (x : Reg) (y : Reg) : EncodingMatchesTable.Statement (.subn x y) := by
  simp [EncodingMatchesTable.Statement, tableFixed, encode, bits_op_formatXY, bits_lo_formatXY]

theorem EncodingMatchesTable.shl (x : Reg) (y : Reg) : EncodingMatchesTable.Statement (.shl x y) := by
  simp [EncodingMatchesTable.Statement, tableFixed, encode, bits_op_formatXY, bits_lo_formatXY]

theorem EncodingMatchesTable.skipNeqReg (x : Reg) (y : Reg) : EncodingMatchesTable.Statement (.skipNeqReg x y) := by
  simp [EncodingMatchesTable.Statement, tableFixed, encode, bits_op_formatXY]

theorem EncodingMatchesTable.loadAddrReg (nnn : Addr12) : EncodingMatchesTable.Statement (.loadAddrReg nnn) := by
  simp [EncodingMatchesTable.Statement, tableFixed, encode, bits_op_formatA]

theorem EncodingMatchesTable.jumpOffset (nnn : Addr12) : EncodingMatchesTable.Statement (.jumpOffset nnn) := by
  simp [EncodingMatchesTable.Statement, tableFixed, encode, bits_op_formatA]

theorem EncodingMatchesTable.randomMask (x : Reg) (nn : Byte) : EncodingMatchesTable.Statement (.randomMask x nn) := by
  simp [EncodingMatchesTable.Statement, tableFixed, encode, bits_op_formatXI]

theorem EncodingMatchesTable.draw (x : Reg) (y : Reg) (n : Nibble) : EncodingMatchesTable.Statement (.draw x y n) := by
  simp [EncodingMatchesTable.Statement, tableFixed, encode, bits_op_formatXY]

theorem EncodingMatchesTable.skipIfPressed (x : Reg) : EncodingMatchesTable.Statement (.skipIfPressed x) := by
  simp [EncodingMatchesTable.Statement, tableFixed, encode, bits_op_formatXI, bits_lo_formatXI]

theorem EncodingMatchesTable.skipIfNotPressed (x : Reg) : EncodingMatchesTable.Statement (.skipIfNotPressed x) := by
  simp [EncodingMatchesTable.Statement, tableFixed, encode, bits_op_formatXI, bits_lo_formatXI]

theorem EncodingMatchesTable.getDelay (x : Reg) : EncodingMatchesTable.Statement (.getDelay x) := by
  simp [EncodingMatchesTable.Statement, tableFixed, encode, bits_op_formatXI, bits_lo_formatXI]

theorem EncodingMatchesTable.waitKey (x : Reg) : EncodingMatchesTable.Statement (.waitKey x) := by
  simp [EncodingMatchesTable.Statement, tableFixed, encode, bits_op_formatXI, bits_lo_formatXI]

theorem EncodingMatchesTable.setDelay (x : Reg) : EncodingMatchesTable.Statement (.setDelay x) := by
  simp [EncodingMatchesTable.Statement, tableFixed, encode, bits_op_formatXI, bits_lo_formatXI]

theorem EncodingMatchesTable.setSound (x : Reg) : EncodingMatchesTable.Statement (.setSound x) := by
  simp [EncodingMatchesTable.Statement, tableFixed, encode, bits_op_formatXI, bits_lo_formatXI]

theorem EncodingMatchesTable.addToAddr (x : Reg) : EncodingMatchesTable.Statement (.addToAddr x) := by
  simp [EncodingMatchesTable.Statement, tableFixed, encode, bits_op_formatXI, bits_lo_formatXI]

theorem EncodingMatchesTable.addrOfDigit (x : Reg) : EncodingMatchesTable.Statement (.addrOfDigit x) := by
  simp [EncodingMatchesTable.Statement, tableFixed, encode, bits_op_formatXI, bits_lo_formatXI]

theorem EncodingMatchesTable.storeBcd (x : Reg) : EncodingMatchesTable.Statement (.storeBcd x) := by
  simp [EncodingMatchesTable.Statement, tableFixed, encode, bits_op_formatXI, bits_lo_formatXI]

theorem EncodingMatchesTable.saveRegs (x : Reg) : EncodingMatchesTable.Statement (.saveRegs x) := by
  simp [EncodingMatchesTable.Statement, tableFixed, encode, bits_op_formatXI, bits_lo_formatXI]

theorem EncodingMatchesTable.restoreRegs (x : Reg) : EncodingMatchesTable.Statement (.restoreRegs x) := by
  simp [EncodingMatchesTable.Statement, tableFixed, encode, bits_op_formatXI, bits_lo_formatXI]

theorem EncodingMatchesTable.unknown (hi : Byte) (lo : Byte) : EncodingMatchesTable.Statement (.unknown hi lo) := by
  simp [EncodingMatchesTable.Statement, tableFixed]

end Sys2Proof.Laws
end

