-- ==== Sys2Proof/Tests/Slice0.lean ====
section
/-! SUPPORT. The model's own tests: ill-formed terms that WellFormed refuses, words written out from spec/30_encoding.md
and what they decode to, single instructions with the results of spec/95_test_vectors.md (a name ending in `_v…` gives
the vector), and for every obligation with hypotheses a witness that meets them. -/

namespace Sys2Proof.Tests

open Sys2Proof.Machine

/-! ### Helpers -/

/-- The machine after reset with the devices' free values replaced by plain ones. -/
def base : State := { State.reset with display := Display.clear, delay := 0, sound := 0 }

/-- `base` with the given registers. -/
def withRegs (rs : List (Reg × Byte)) (s : State := base) : State := rs.foldl (fun s r => s.setReg r.1 r.2) s

/-- A state with bytes stored from an address on. -/
def withBytes (s : State) (addr : Nat) (bs : List Byte) : State := s.setMem (s.mem.writeBytes addr bs)

/-- `base` with the word 0000, a `SYS`, at `pc`. -/
def ready (s : State := base) : State := withBytes s 0x200 [0x00, 0x00]

/-- A state with `sp` addresses on its stack, all of them `v`. -/
def withStack (sp : Fin 17) (v : Word) (s : State := base) : State := s.setCallStack sp (Vector.replicate 16 v)

/-- The word `hi lo` run on a state. -/
def run (hi lo : Byte) (s : State) : Result := exec (decode hi lo) s

/-- The result is a next state of which `p` holds. -/
def gives (r : Result) (p : State → Bool) : Bool :=
  match r with
  | .next t => p t
  | .fault _ => false
  | .refused _ => false

/-- The state holds the record of this fault. -/
def isFault (t : State) (kind : FaultKind) (pc addr : Word) : Bool :=
  t.status == .faulted && t.faultKind == kind && t.faultPc == pc && t.faultAddr == addr && t.pc == pc

/-! ### WellFormed refuses -/

theorem test_wf_refuses_sys_00E0 : ¬Instr.WellFormed (.sys 0x0E0) := by decide
theorem test_wf_refuses_sys_00EE : ¬Instr.WellFormed (.sys 0x0EE) := by decide
theorem test_wf_refuses_unknown_in_group0 : ¬Instr.WellFormed (.unknown 0x00 0xE1) := by decide
theorem test_wf_refuses_unknown_add : ¬Instr.WellFormed (.unknown 0x81 0x24) := by decide
theorem test_wf_refuses_unknown_key_skip : ¬Instr.WellFormed (.unknown 0xE3 0x9E) := by decide
theorem test_wf_refuses_unknown_save : ¬Instr.WellFormed (.unknown 0xF2 0x55) := by decide
theorem test_wf_accepts_sys_and_unknown : Instr.WellFormed (.sys 0x000) ∧ Instr.WellFormed (.unknown 0x80 0x18) := by decide

/-! ### Decoding: V-DEC-1 to V-DEC-54 -/

theorem test_decode_group0 :
    decode 0x00 0xE0 = .cls ∧ decode 0x00 0xEE = .ret ∧ decode 0x02 0x34 = .sys 0x234 ∧ decode 0x00 0x00 = .sys 0x000 ∧
    decode 0x01 0xE0 = .sys 0x1E0 ∧ decode 0x01 0xEE = .sys 0x1EE ∧ decode 0x00 0xE1 = .sys 0x0E1 ∧
    decode 0x00 0xEF = .sys 0x0EF ∧ decode 0x0F 0xFF = .sys 0xFFF := by decide
theorem test_decode_address_forms :
    decode 0x1A 0xBC = .jump 0xABC ∧ decode 0x22 0x10 = .call 0x210 ∧ decode 0xA2 0xF0 = .loadAddrReg 0x2F0 ∧
    decode 0xB3 0x00 = .jumpOffset 0x300 ∧ decode 0xBF 0xFF = .jumpOffset 0xFFF := by decide
theorem test_decode_immediate_forms :
    decode 0x3A 0x07 = .skipEqImm 10 0x07 ∧ decode 0x4A 0x07 = .skipNeqImm 10 0x07 ∧ decode 0x6A 0x2F = .loadImm 10 0x2F ∧
    decode 0x71 0x05 = .addImm 1 0x05 ∧ decode 0xC1 0x0F = .randomMask 1 0x0F := by decide
theorem test_decode_register_skips :
    decode 0x51 0x20 = .skipEqReg 1 2 ∧ decode 0x51 0x27 = .skipEqReg 1 2 ∧ decode 0x91 0x20 = .skipNeqReg 1 2 ∧
    decode 0x91 0x2F = .skipNeqReg 1 2 := by decide
theorem test_decode_group8 :
    decode 0x81 0x20 = .move 1 2 ∧ decode 0x81 0x21 = .or 1 2 ∧ decode 0x81 0x22 = .and 1 2 ∧ decode 0x81 0x23 = .xor 1 2 ∧
    decode 0x81 0x24 = .add 1 2 ∧ decode 0x81 0x25 = .sub 1 2 ∧ decode 0x81 0x26 = .shr 1 2 ∧
    decode 0x81 0x27 = .subn 1 2 ∧ decode 0x81 0x2E = .shl 1 2 := by decide
theorem test_decode_draw : decode 0xD0 0x15 = .draw 0 1 5 ∧ decode 0xD0 0x10 = .draw 0 1 0 := by decide
theorem test_decode_key_skips : decode 0xE3 0x9E = .skipIfPressed 3 ∧ decode 0xE3 0xA1 = .skipIfNotPressed 3 := by decide
theorem test_decode_group_F :
    decode 0xF2 0x07 = .getDelay 2 ∧ decode 0xF4 0x0A = .waitKey 4 ∧ decode 0xF2 0x15 = .setDelay 2 ∧
    decode 0xF2 0x18 = .setSound 2 ∧ decode 0xF2 0x1E = .addToAddr 2 ∧ decode 0xF0 0x29 = .addrOfDigit 0 ∧
    decode 0xF0 0x33 = .storeBcd 0 ∧ decode 0xF2 0x55 = .saveRegs 2 ∧ decode 0xFF 0x65 = .restoreRegs 15 := by decide
theorem test_decode_counts : regCount 2 = 3 ∧ regCount 15 = 16 ∧ regCount 0 = 1 := by decide
theorem test_decode_unknown_group8 :
    ∀ lo ∈ ([0x28, 0x29, 0x2A, 0x2B, 0x2C, 0x2D, 0x2F] : List Byte), decode 0x81 lo = .unknown 0x81 lo := by decide
theorem test_decode_unknown_groupE :
    ∀ lo ∈ ([0x9F, 0xA0, 0x00, 0xFF] : List Byte), decode 0xE3 lo = .unknown 0xE3 lo := by decide
theorem test_decode_unknown_groupF :
    ∀ lo ∈ ([0x00, 0x08, 0x14, 0x1F, 0x30, 0x56, 0x64, 0x66, 0x75, 0x85, 0xFF] : List Byte),
      decode 0xF2 lo = .unknown 0xF2 lo := by decide
theorem test_decode_rejects_a_single_byte : decodeBytes [0x60] = .error .truncated := rfl
theorem test_decode_rejects_no_byte : decodeBytes [] = .error .truncated := rfl
theorem test_decode_takes_two_bytes : decodeBytes [0x6A, 0x2F, 0x00] = .ok (.loadImm 10 0x2F, [0x00]) := rfl
theorem test_decodeTableWord_most_significant_byte_first : decodeTableWord 16 0x1ABC = some (.jump 0xABC) := by decide
theorem test_encode_canonical_words : encode (.skipEqReg 1 2) = 0x5120 ∧ encode (.draw 0 1 5) = 0xD015 := by decide

/-! ### The step, `SYS`, `UNKNOWN` -/

theorem test_step_last_two_bytes_v_step_1 :
    gives (step (withBytes (base.setPc 0xFFE) 0xFFE [0x60, 0x05])) (fun t => t.reg 0 == 0x05 && t.pc == 0x1000) = true := by
  decide
theorem test_step_fetch_fault_v_step_2 :
    gives (step (base.setPc 0xFFF)) (fun t => isFault t .outOfBounds 0xFFF 0xFFF) = true := by decide
theorem test_step_odd_address_v_step_4 :
    gives (step (withBytes (base.setPc 0x201) 0x201 [0x6A, 0x2F])) (fun t => t.reg 10 == 0x2F && t.pc == 0x203) = true := by
  decide
theorem test_withFetchWord_runs_the_word :
    gives (step (State.reset.withFetchWord 16 0x6A2F)) (fun t => t.reg 10 == 0x2F && t.pc == 0x202) = true := by decide
theorem test_boot_refuses_a_long_program (glyphs : Vector (Vector Byte 5) 16) :
    base.boot glyphs (List.replicate 3585 0) = none := by
  rw [State.boot, List.length_replicate]
  rfl
theorem test_status_port_v_cf_2 :
    gives (run 0x00 0xEE (withRegs [(3, 0x77)]))
      (fun t => t.statusPort == { base.statusPort with
        x := (Vector.replicate 16 0).set 3 0x77, status := .faulted, faultKind := .stackUnderflow, faultPc := 0x200 }) = true := by
  decide
theorem test_tagName : (decode 0x81 0x27).tagName = "SUBN" ∧ (decode 0xF2 0x1E).tagName = "ADD_TO_ADDR" := by decide
theorem test_sys_is_no_call_v_sys_3 : gives (run 0x03 0x00 base) (fun t => t.pc == 0x202 && t.sp == 0) = true := by decide
theorem test_unknown_v_unk_1 :
    gives (run 0x80 0x18 (withRegs [(0, 0x12), (1, 0x34), (15, 0x56)]))
      (fun t => t.pc == 0x202 && t.reg 0 == 0x12 && t.reg 15 == 0x56 && t.diag == [⟨0x200, 0x80, 0x18⟩] &&
        t.status == .running) = true := by decide

/-! ### Control transfer -/

theorem test_ret_v_cf_3 :
    gives (run 0x00 0xEE (withStack 16 0xABC)) (fun t => t.pc == 0xABC && t.sp == 15) = true := by decide
theorem test_ret_empty_stack_v_cf_2 :
    gives (run 0x00 0xEE base) (fun t => isFault t .stackUnderflow 0x200 0 && t.sp == 0) = true := by decide
theorem test_jump_v_cf_4 : gives (run 0x1A 0xBC base) (fun t => t.pc == 0xABC) = true := by decide
theorem test_jump_odd_v_cf_7 : gives (run 0x12 0x01 base) (fun t => t.pc == 0x201) = true := by decide
theorem test_call_v_cf_9 :
    gives (run 0x23 0x00 (withStack 15 0)) (fun t => t.pc == 0x300 && t.sp == 16 && t.stack[15] == 0x202) = true := by decide
theorem test_call_full_stack_v_cf_10 :
    gives (run 0x23 0x00 (withStack 16 0)) (fun t => isFault t .stackOverflow 0x200 0 && t.sp == 16 && t.stack[15] == 0) =
      true := by decide
theorem test_jumpOffset_no_mask_v_cf_13 :
    gives (run 0xBF 0xFF (withRegs [(0, 0xFF)])) (fun t => t.pc == 0x10FE) = true := by decide
theorem test_jumpOffset_uses_x0_v_cf_14 :
    gives (run 0xB3 0x00 (withRegs [(3, 0x77)])) (fun t => t.pc == 0x300) = true := by decide
theorem test_skipEqImm_taken_v_cf_16 : gives (run 0x3A 0x07 (withRegs [(10, 0x07)])) (fun t => t.pc == 0x204) = true := by
  decide
theorem test_skipEqImm_not_taken_v_cf_17 :
    gives (run 0x3A 0x07 (withRegs [(10, 0x08)])) (fun t => t.pc == 0x202) = true := by decide
theorem test_skipNeqImm_not_taken_v_cf_18 :
    gives (run 0x4A 0x07 (withRegs [(10, 0x07)])) (fun t => t.pc == 0x202) = true := by decide
theorem test_skipNeqImm_taken_v_cf_19 :
    gives (run 0x4A 0x07 (withRegs [(10, 0x08)])) (fun t => t.pc == 0x204) = true := by decide
theorem test_skipEqReg_taken_v_cf_20 :
    gives (run 0x51 0x20 (withRegs [(1, 0x33), (2, 0x33)])) (fun t => t.pc == 0x204) = true := by decide
theorem test_skipEqReg_not_taken_v_cf_21 :
    gives (run 0x51 0x20 (withRegs [(1, 0x33), (2, 0x34)])) (fun t => t.pc == 0x202) = true := by decide
theorem test_skipNeqReg_taken_v_cf_24 :
    gives (run 0x91 0x20 (withRegs [(1, 0x33), (2, 0x34)])) (fun t => t.pc == 0x204) = true := by decide
theorem test_skipNeqReg_same_register_v_cf_25 : gives (run 0x93 0x30 base) (fun t => t.pc == 0x202) = true := by decide

/-! ### Loads and the ALU -/

theorem test_loadImm_v_alu_1 : gives (run 0x6A 0x2F base) (fun t => t.reg 10 == 0x2F && t.pc == 0x202) = true := by decide
theorem test_addImm_no_carry_v_alu_3 :
    gives (run 0x71 0x05 (withRegs [(1, 0xFE)])) (fun t => t.reg 1 == 0x03 && t.reg 15 == 0) = true := by decide
theorem test_move_copies_y_v_alu_7 : gives (run 0x81 0x20 (withRegs [(2, 0x7B)])) (fun t => t.reg 1 == 0x7B) = true := by
  decide
theorem test_or_v_alu_8 :
    gives (run 0x81 0x21 (withRegs [(1, 0xF0), (2, 0x3C), (15, 1)])) (fun t => t.reg 1 == 0xFC && t.reg 15 == 1) = true := by
  decide
theorem test_and_v_alu_9 :
    gives (run 0x81 0x22 (withRegs [(1, 0xF0), (2, 0x3C), (15, 1)])) (fun t => t.reg 1 == 0x30 && t.reg 15 == 1) = true := by
  decide
theorem test_xor_v_alu_10 :
    gives (run 0x81 0x23 (withRegs [(1, 0xF0), (2, 0x3C), (15, 1)])) (fun t => t.reg 1 == 0xCC && t.reg 15 == 1) = true := by
  decide
theorem test_add_no_carry_at_255_v_alu_15 :
    gives (run 0x80 0x14 (withRegs [(0, 0xFF), (15, 1)])) (fun t => t.reg 0 == 0xFF && t.reg 15 == 0) = true := by decide
theorem test_add_destination_wins_v_alu_19 : gives (run 0x8F 0xF4 (withRegs [(15, 0x90)])) (fun t => t.reg 15 == 0x20) = true := by
  decide
theorem test_sub_equal_v_alu_22 :
    gives (run 0x80 0x15 (withRegs [(0, 7), (1, 7), (15, 1)])) (fun t => t.reg 0 == 0 && t.reg 15 == 0) = true := by decide
theorem test_sub_reads_flag_first_v_alu_26 :
    gives (run 0x81 0xF5 (withRegs [(1, 5), (15, 3)])) (fun t => t.reg 1 == 2 && t.reg 15 == 1) = true := by decide
theorem test_shr_ignores_y_v_alu_32 :
    gives (run 0x81 0x26 (withRegs [(1, 0xFF)])) (fun t => t.reg 1 == 0x7F && t.reg 15 == 1 && t.reg 2 == 0) = true := by
  decide
theorem test_shr_clears_flag_v_alu_30 :
    gives (run 0x81 0x06 (withRegs [(1, 4), (15, 1)])) (fun t => t.reg 1 == 2 && t.reg 15 == 0) = true := by decide
theorem test_subn_v_alu_34 :
    gives (run 0x80 0x17 (withRegs [(0, 3), (1, 5)])) (fun t => t.reg 0 == 2 && t.reg 15 == 1) = true := by decide
theorem test_subn_borrow_v_alu_35 :
    gives (run 0x80 0x17 (withRegs [(0, 5), (1, 3)])) (fun t => t.reg 0 == 0xFE && t.reg 15 == 0) = true := by decide
theorem test_shl_v_alu_39 :
    gives (run 0x80 0x0E (withRegs [(0, 0x81)])) (fun t => t.reg 0 == 2 && t.reg 15 == 1) = true := by decide
theorem test_shl_destination_wins_v_alu_43 : gives (run 0x8F 0x0E (withRegs [(15, 0xC1)])) (fun t => t.reg 15 == 0x82) = true := by
  decide

/-! ### The address register and memory -/

theorem test_loadAddrReg_v_mem_1 : gives (run 0xA2 0xF0 (base.setI 0xFFFF)) (fun t => t.I == 0x2F0) = true := by decide
theorem test_addToAddr_no_mask_v_mem_3 :
    gives (run 0xF2 0x1E (withRegs [(2, 1)] (base.setI 0xFFF))) (fun t => t.I == 0x1000 && t.reg 15 == 0) = true := by decide
theorem test_addToAddr_wraps_v_mem_5 :
    gives (run 0xF2 0x1E (withRegs [(2, 0xFF)] (base.setI 0xFF80))) (fun t => t.I == 0x007F) = true := by decide
theorem test_addrOfDigit_v_mem_6 :
    run 0xF0 0x29 (withRegs [(0, 0x0A)]) =
      .next ((withRegs [(0, 0x0A)]).setI (BitVec.ofNat 16 (Config.digitAddr 10).val)).advance := rfl
theorem test_storeBcd_v_mem_13 :
    gives (run 0xF0 0x33 (withRegs [(0, 0x7B)] (base.setI 0xFFD)))
      (fun t => t.mem == [(0xFFD, 1), (0xFFE, 2), (0xFFF, 3)] && t.I == 0xFFD) = true := by decide
theorem test_storeBcd_fault_v_mem_14 :
    gives (run 0xF0 0x33 (withRegs [(0, 0x7B)] (base.setI 0xFFE)))
      (fun t => isFault t .outOfBounds 0x200 0xFFE && t.mem == []) = true := by decide
theorem test_saveRegs_v_mem_15 :
    gives (run 0xF2 0x55 (withRegs [(0, 0x11), (1, 0x22), (2, 0x33), (3, 0x44)] (base.setI 0x400)))
      (fun t => t.mem == [(0x400, 0x11), (0x401, 0x22), (0x402, 0x33)] && t.I == 0x400) = true := by decide
theorem test_saveRegs_fault_v_mem_18 :
    gives (run 0xFF 0x55 (withRegs [(0, 0x11)] (base.setI 0xFF1)))
      (fun t => isFault t .outOfBounds 0x200 0xFF1 && t.mem == []) = true := by decide
theorem test_restoreRegs_v_mem_19 :
    gives (run 0xF1 0x65 (withBytes (withRegs [(2, 0x77)] (base.setI 0x400)) 0x400 [0xAA, 0xBB, 0xCC]))
      (fun t => t.reg 0 == 0xAA && t.reg 1 == 0xBB && t.reg 2 == 0x77) = true := by decide
theorem test_restoreRegs_fault_v_mem_21 :
    gives (run 0xF0 0x65 (withRegs [(0, 0x55)] (base.setI 0x1000)))
      (fun t => isFault t .outOfBounds 0x200 0x1000 && t.reg 0 == 0x55) = true := by decide

/-! ### The capability -/

/-- One pixel set at column `col`, row `row`. -/
def withPixel (s : State) (col : Fin 64) (row : Fin 32) : State := s.setDisplay (s.display.setPixel row col true)

theorem test_cls_v_io_1 :
    gives (run 0x00 0xE0 (withPixel (withRegs [(15, 1)]) 63 31)) (fun t => !t.display.pixel 31 63 && t.reg 15 == 1) =
      true := by decide
theorem test_randomMask_v_io_2 :
    gives (run 0xC1 0x0F { base with rand := 0xA7 }) (fun t => t.reg 1 == 0x07) = true := by decide
theorem test_draw_wraps_both_edges_v_io_7 :
    gives (run 0xD0 0x12 (withBytes (withRegs [(0, 0x3F), (1, 0x1F)] (base.setI 0x300)) 0x300 [0xC0, 0xC0]))
      (fun t => t.display.pixel 31 63 && t.display.pixel 31 0 && t.display.pixel 0 63 && t.display.pixel 0 0 &&
        !t.display.pixel 0 1 && t.reg 15 == 0) = true := by decide
theorem test_draw_collision_v_io_11 :
    gives (run 0xD0 0x11 (withBytes (withRegs [(0, 1)] (withPixel (withPixel (base.setI 0x300) 0 0) 1 0)) 0x300 [0xC0]))
      (fun t => t.display.pixel 0 0 && !t.display.pixel 0 1 && t.display.pixel 0 2 && t.reg 15 == 1) = true := by
  decide
theorem test_skipIfPressed_v_io_15 :
    gives (run 0xE3 0x9E (withRegs [(3, 5)] { base with keys := base.keys.set 5 true })) (fun t => t.pc == 0x204) = true := by
  decide
theorem test_skipIfPressed_up_v_io_16 : gives (run 0xE3 0x9E (withRegs [(3, 5)])) (fun t => t.pc == 0x202) = true := by decide
theorem test_skipIfNotPressed_up_v_io_17 : gives (run 0xE3 0xA1 (withRegs [(3, 5)])) (fun t => t.pc == 0x204) = true := by
  decide
theorem test_skipIfNotPressed_down_v_io_18 :
    gives (run 0xE3 0xA1 (withRegs [(3, 5)] { base with keys := base.keys.set 5 true })) (fun t => t.pc == 0x202) = true := by
  decide
theorem test_getDelay_v_io_20 : gives (run 0xF2 0x07 { base with delay := 0x1E }) (fun t => t.reg 2 == 0x1E) = true := by decide
theorem test_waitKey_held_v_io_21 : gives (run 0xF4 0x0A base) (fun t => t == base) = true := by rfl
theorem test_waitKey_event_v_io_22 :
    gives (run 0xF4 0x0A { base with keyEvent := some 11 })
      (fun t => t.reg 4 == 0x0B && t.pc == 0x202 && t.keyEvent == none) = true := by decide
theorem test_setDelay_v_io_23 :
    gives (run 0xF2 0x15 (withRegs [(2, 0x3C)])) (fun t => t.delay == 0x3C && t.sound == 0 && t.pc == 0x202) = true := by decide
theorem test_setSound_v_io_24 :
    gives (run 0xF2 0x18 (withRegs [(2, 5)])) (fun t => t.sound == 5 && t.delay == 0 && t.pc == 0x202) = true := by decide

/-! ### Witnesses: for every obligation with hypotheses, states and operands that meet all of them, at the boundary of each
clause's range -/

theorem witness_MemReadReturnsBytesOrIsRefused :
    (0xFFF : Word).toNat + 2 > 4096 ∧ (0xFFE : Word).toNat + 2 ≤ 4096 ∧ (0xFFFF : Word).toNat + 0 > 4096 ∧
    (withBytes base 0xFFE [1, 2]).memRead 0xFFE 2 = some [1, 2] := by decide

theorem witness_MemWriteStoresWholeRangeOrNothing :
    (0xFFE : Word).toNat + [(1 : Byte), 2, 3].length > 4096 ∧
    (0xFFD : Word).toNat + [(1 : Byte), 2, 3].length ≤ 4096 := by decide

theorem witness_DecodeOfEncodeIsIdentity :
    Instr.WellFormed (.sys 0x0EF) ∧ Instr.WellFormed (.unknown 0xFF 0xFF) ∧ Instr.WellFormed (.draw 15 15 15) := by decide

theorem witness_EncodeOfDecodeIsIdentity :
    ((0x51 : Byte).toNat / 16 = 5 ∨ (0x51 : Byte).toNat / 16 = 9 → (0x20 : Byte).toNat % 16 = 0) ∧
    ((0x81 : Byte).toNat / 16 = 5 ∨ (0x81 : Byte).toNat / 16 = 9 → (0x2E : Byte).toNat % 16 = 0) := by decide

theorem witness_UnknownSpaceIsExact : ∃ h l, decode 0xF2 0x75 = .unknown h l := ⟨0xF2, 0x75, by decide⟩

theorem witness_DecodeByMaskInGroupsTheDocumentGives :
    (0x00 : Byte) ++ (0xE0 : Byte) = 0x00E0#16 ∧ (0x00 : Byte) ++ (0xEE : Byte) = 0x00EE#16 ∧
    ((0x00 : Byte) ++ (0xEF : Byte)) &&& 0xF000#16 = 0x0000 ∧ ((0x00 : Byte) ++ (0xEF : Byte)) ≠ 0x00E0#16 ∧
    ((0x00 : Byte) ++ (0xEF : Byte)) ≠ 0x00EE#16 ∧
    (∀ op ∈ ([0x1, 0x2, 0x3, 0x4, 0x6, 0x7, 0xA, 0xB, 0xC, 0xD] : List Nat),
      (BitVec.ofNat 8 (op * 16 + 15) ++ (0xFF : Byte)) &&& 0xF000#16 = BitVec.ofNat 16 (op * 0x1000)) ∧
    (∀ f ∈ ([0x9E, 0xA1] : List Nat), ((0xEF : Byte) ++ BitVec.ofNat 8 f) &&& 0xF0FF#16 = BitVec.ofNat 16 (0xE000 + f)) ∧
    ((0xEF : Byte) ++ (0x9F : Byte)) &&& 0xF000#16 = 0xE000 := by decide

theorem witness_DecodeByMaskInGroups5And8And9 :
    (∀ op ∈ ([0x5, 0x9] : List Nat),
      (BitVec.ofNat 8 (op * 16 + 15) ++ (0xFF : Byte)) &&& 0xF000#16 = BitVec.ofNat 16 (op * 0x1000)) ∧
    (∀ f ∈ ([0x0, 0x1, 0x2, 0x3, 0x4, 0x5, 0x6, 0x7, 0xE] : List Nat),
      ((0x8F : Byte) ++ BitVec.ofNat 8 (0xF0 + f)) &&& 0xF00F#16 = BitVec.ofNat 16 (0x8000 + f)) ∧
    ((0x8F : Byte) ++ (0xFF : Byte)) &&& 0xF000#16 = 0x8000 ∧ (0xFF : Byte) &&& 0xF = 0xF := by decide

theorem witness_DecodeByMaskInGroupF :
    (∀ f ∈ ([0x07, 0x0A, 0x15, 0x18, 0x1E, 0x29, 0x33, 0x55, 0x65] : List Nat),
      ((0xFF : Byte) ++ BitVec.ofNat 8 f) &&& 0xF0FF#16 = BitVec.ofNat 16 (0xF000 + f)) ∧
    ((0xFF : Byte) ++ (0x75 : Byte)) &&& 0xF000#16 = 0xF000 := by decide

/-- The three cases of a step, the fetch at its last address and one beyond. -/
theorem witness_StepRunsTheDecodedInstruction :
    ((base.setPc 0xFFE).status = .running ∧ (base.setPc 0xFFE).pc.toNat + 2 ≤ 4096) ∧
    ((base.setPc 0xFFF).status = .running ∧ (base.setPc 0xFFF).pc.toNat + 2 > 4096) ∧
    (base.takeFault .outOfBounds 0).status = .faulted := by decide

theorem witness_FaultsCommitNothing :
    ∃ t, (base.setPc 0xFFF).status = .running ∧ (base.setPc 0xFFF).fetchAndRun = .next t ∧ t.status = .faulted :=
  ⟨_, rfl, rfl, rfl⟩

theorem witness_FaultConditionsAreExact :
    (base.setPc 0xFFF).pc.toNat + 2 > 4096 ∧ (base.setPc 0xFFE).pc.toNat + 2 ≤ 4096 ∧
    dueFault .ret base = some (.stackUnderflow, 0) ∧ dueFault .ret (withStack 1 0) = none ∧
    dueFault (.call 0x300) (withStack 16 0) = some (.stackOverflow, 0) ∧ dueFault (.call 0x300) (withStack 15 0) = none ∧
    dueFault (.draw 0 0 3) (base.setI 0xFFE) = some (.outOfBounds, 0xFFE) ∧ dueFault (.draw 0 0 3) (base.setI 0xFFD) = none ∧
    dueFault (.storeBcd 0) (base.setI 0xFFE) = some (.outOfBounds, 0xFFE) ∧ dueFault (.storeBcd 0) (base.setI 0xFFD) = none ∧
    dueFault (.saveRegs 15) (base.setI 0xFF1) = some (.outOfBounds, 0xFF1) ∧
    dueFault (.saveRegs 15) (base.setI 0xFF0) = none ∧
    dueFault (.restoreRegs 0) (base.setI 0x1000) = some (.outOfBounds, 0x1000) ∧
    dueFault (.restoreRegs 0) (base.setI 0xFFF) = none := by decide

theorem witness_FaultedUntilReset : (base.takeFault .stackOverflow 0).status = .faulted := rfl

theorem witness_InvariantHoldsAfterReset :
    (withBytes base 0xFFE [1, 2]).mem.wf = true ∧
    ∃ t, base.mem.wf = true ∧ base.boot (Vector.replicate 16 (Vector.replicate 5 0)) [0x12, 0x00] = some t :=
  ⟨by decide, _, rfl, rfl⟩

/-- The longest program and one longer, the first and the last byte of a program, glyphs that agree wherever `DIGIT_ADDR` lets
them overlap, and a byte that neither covers. -/
theorem witness_BootPlacesTheImage :
    (List.replicate 3585 (0 : Byte)).length > 3584 ∧ (List.replicate 3584 (0 : Byte)).length ≤ 3584 ∧
    (0 < (List.replicate 3584 (0 : Byte)).length ∧ 3583 < (List.replicate 3584 (0 : Byte)).length) ∧
    (∀ (d e : Fin 16) (k j : Fin 5), (Config.digitAddr e).val + j.val = (Config.digitAddr d).val + k.val →
      ((Vector.replicate 16 (Vector.replicate 5 (0x90 : Byte)))[e.val])[j.val] =
        ((Vector.replicate 16 (Vector.replicate 5 (0x90 : Byte)))[d.val])[k.val]) ∧
    (0x200 + ([] : List Byte).length ≤ 0x200 ∧ ∀ d, 0x200 < (Config.digitAddr d).val ∨ (Config.digitAddr d).val + 5 ≤ 0x200) := by
  simp only [List.length_replicate, List.length_nil]
  exact ⟨by omega, by omega, by omega, fun d e k j _ => by simp, by omega, fun d => by have := (Config.digitAddr d).isLt; omega⟩

theorem witness_StatusPortReportsTheFault :
    ∃ t, (base.setPc 0xFFF).status = .running ∧ (base.setPc 0xFFF).fetchAndRun = .next t ∧ t.status = .faulted :=
  ⟨_, rfl, rfl, rfl⟩

/-- A `SYS` at 0x200 meets the invariant, and a step from it answers a state. -/
theorem witness_InvariantIsKeptByEveryStep : ∃ t, ready.Inv ∧ step ready = .next t :=
  ⟨_, ⟨rfl, by decide, fun _ h => absurd h (Nat.not_lt_zero _), fun _ => ⟨rfl, rfl, rfl⟩, nofun, fun _ => rfl⟩, rfl⟩

/-- A completed and a faulting instruction. -/
theorem witness_ProgramCounterAfterEveryInstruction :
    (∃ t, base.status = .running ∧ exec (.skipEqImm 0 0) base = .next t ∧ t.status = .running) ∧
    (∃ t, base.status = .running ∧ exec .ret base = .next t ∧ t.status = .faulted) :=
  ⟨⟨_, rfl, rfl, rfl⟩, ⟨_, rfl, rfl, rfl⟩⟩

/-- Register 15 left alone by `ADD_IMM`, and written as the flag by `ADD`. -/
theorem witness_OnlyDestinationsAndTheFlagChange :
    (∃ t, exec (.addImm 14 1) base = .next t ∧ ¬destRegs (.addImm 14 1) 15 ∧ ¬writesFlag (.addImm 14 1)) ∧
    (∃ t, exec (.add 14 0) base = .next t ∧ t.status = .running ∧ writesFlag (.add 14 0) ∧ ¬destRegs (.add 14 0) 15) :=
  ⟨⟨_, rfl, by simp [destRegs], by simp [writesFlag]⟩, ⟨_, rfl, rfl, .inl ⟨_, _, rfl⟩, by simp [destRegs]⟩⟩

theorem witness_OnlyThreeInstructionsWriteI :
    ∃ t, exec (.saveRegs 15) base = .next t ∧ (∀ nnn, (Instr.saveRegs 15) ≠ .loadAddrReg nnn) ∧
      (∀ x, (Instr.saveRegs 15) ≠ .addToAddr x) ∧ ∀ x, (Instr.saveRegs 15) ≠ .addrOfDigit x :=
  ⟨_, rfl, nofun, nofun, nofun⟩

/-- `RET` is no `CALL`, `JUMP` is neither, a `CALL` that completes, and two states that differ in a dead slot. -/
theorem witness_StackIsReachedOnlyByCallAndRet :
    (∃ t, exec .ret (withStack 1 0x202) = .next t ∧ ∀ nnn, Instr.ret ≠ .call nnn) ∧
    (∃ t, exec (.jump 0x300) base = .next t ∧ (∀ nnn, Instr.jump 0x300 ≠ .call nnn) ∧ Instr.jump 0x300 ≠ .ret) ∧
    (∃ t, exec (.call 0x300) (withStack 15 0) = .next t) ∧
    (∃ s', SameButDeadSlots (withStack 0 0x202 ready) (withStack 0 0x204 ready) ∧
      step (withStack 0 0x202 ready) = .next s' ∧ withStack 0 0x202 ready ≠ withStack 0 0x204 ready) := by
  refine ⟨⟨_, rfl, nofun⟩, ⟨_, rfl, nofun, nofun⟩, ⟨_, rfl⟩, _, ⟨rfl, fun _ h => absurd h (Nat.not_lt_zero _)⟩, rfl,
    fun h => ?_⟩
  have := congrArg State.stack h
  exact absurd this (by decide)

/-- A store at the last addresses, a refused one, and an instruction that touches no memory. -/
theorem witness_MemoryIsReachedOnlyAtI :
    (∃ t, exec (.saveRegs 1) (base.setI 0xFFE) = .next t) ∧
    (∃ t, exec (.saveRegs 1) (base.setI 0xFFF) = .next t ∧ (base.setI 0xFFF).status = .running ∧ t.status = .faulted) ∧
    (∃ t, exec .cls base = .next t ∧ (∀ x, Instr.cls ≠ .storeBcd x) ∧ (∀ x, Instr.cls ≠ .saveRegs x) ∧
      (∀ x, Instr.cls ≠ .restoreRegs x) ∧ ∀ x y n, Instr.cls ≠ .draw x y n) :=
  ⟨⟨_, rfl⟩, ⟨_, rfl, rfl, rfl⟩, ⟨_, rfl, nofun, nofun, nofun, nofun⟩⟩

theorem witness_DevicesChangeOnlyOnRequest :
    ∃ t, exec (.jump 0x300) base = .next t ∧ (Instr.jump 0x300 ≠ .cls) ∧ (∀ x y n, Instr.jump 0x300 ≠ .draw x y n) ∧
      (∀ x, Instr.jump 0x300 ≠ .setDelay x) ∧ (∀ x, Instr.jump 0x300 ≠ .setSound x) ∧
      (∀ x, Instr.jump 0x300 ≠ .waitKey x) ∧ ∀ hi lo, Instr.jump 0x300 ≠ .unknown hi lo :=
  ⟨_, rfl, nofun, nofun, nofun, nofun, nofun, nofun⟩

/-- The `JUMP` to itself at the highest address an instruction can stand at. -/
theorem witness_ParkedForEver : (withBytes (base.setPc 0xFFE) 0xFFE [0x1F, 0xFE]).Parked 0xFFE :=
  ⟨by decide, rfl, by decide⟩

/-- V-MEM-22: the next instruction is what `SAVE_REGS x1` stores; and the last two digits a `STORE_BCD` stores. -/
theorem witness_StoreIsSeenByTheNextFetch :
    (∃ t, t.pc.toNat = (base.setI 0x202).I.toNat + 0 ∧ 0 + 1 ≤ (1 : Reg).val ∧
      (base.setI 0x202).I.toNat + ((1 : Reg).val + 1) ≤ 4096 ∧ exec (.saveRegs 1) (base.setI 0x202) = .next t) ∧
    (∃ t, t.pc.toNat = (base.setI 0x201).I.toNat + 1 ∧ 1 + 1 ≤ 2 ∧
      (base.setI 0x201).I.toNat + 3 ≤ 4096 ∧ exec (.storeBcd 0) (base.setI 0x201) = .next t) :=
  ⟨⟨_, by decide, by decide, by decide, rfl⟩, ⟨_, by decide, by decide, by decide, rfl⟩⟩

theorem witness_JumpAndCallGoToTheTarget : (withStack 15 0).sp.val < 16 ∧ (withStack 16 0).sp.val = 16 := by decide

theorem witness_RetPopsTheReturnAddress : 0 < (withStack 1 0).sp.val ∧ base.sp.val = 0 := by decide

theorem witness_CallThenRetRoundTrips :
    ∃ t, (withStack 15 0).sp.val < 16 ∧ exec (.call 0x210) (withStack 15 0) = .next t ∧ (t.setPc 0x300).sp = t.sp ∧
      (t.setPc 0x300).stack = t.stack :=
  ⟨_, by decide, rfl, rfl, rfl⟩

theorem witness_SeventeenthNestedCallOverflows :
    (withStack 16 0).sp.val = 16 ∧ base.status = .running ∧ base.sp = 0 ∧ (List.replicate 16 (0x200 : Addr12)).length = 16 := by decide

theorem witness_SkipsAddTwoOrFour :
    base.reg 0 = 0x00 ∧ base.reg 0 ≠ 0x01 ∧ base.reg 0 = base.reg 1 ∧ (withRegs [(1, 1)]).reg 0 ≠ (withRegs [(1, 1)]).reg 1 := by
  decide

/-- The last register that is not the flag (`AddWritesSumAndCarry`, `SubtractionsWriteDifferenceAndComparison`,
`ShiftsWriteResultAndBitShiftedOut`). -/
theorem witness_flag_writing_operations : (14 : Reg) ≠ 15 := by decide

theorem witness_AddrOfDigitWritesTheGlyphAddress : ((withRegs [(0, 0x0F)]).reg 0).toNat < 16 := by decide

theorem witness_StoreBcdStoresThreeDigits :
    (base.setI 0xFFD).I.toNat + 3 ≤ 4096 ∧ (base.setI 0xFFE).I.toNat + 3 > 4096 := by decide

theorem witness_SaveRegsStoresTheRange :
    (base.setI 0xFF0).I.toNat + ((15 : Reg).val + 1) ≤ 4096 ∧
    (base.setI 0xFF1).I.toNat + ((15 : Reg).val + 1) > 4096 ∧ (15 : Reg) ≤ 15 := by decide

theorem witness_RestoreRegsLoadsTheRange :
    (base.setI 0xFFF).I.toNat + ((0 : Reg).val + 1) ≤ 4096 ∧ (base.setI 0x1000).I.toNat + ((0 : Reg).val + 1) > 4096 := by
  decide

theorem witness_SaveThenRestoreGivesRegistersBack :
    ∃ t, (base.setI 0xFF0).I.toNat + ((15 : Reg).val + 1) ≤ 4096 ∧
      exec (.saveRegs 15) (base.setI 0xFF0) = .next t ∧ (t.setReg 3 0x77).mem = t.mem ∧ (t.setReg 3 0x77).I = t.I :=
  ⟨_, by decide, rfl, rfl, rfl⟩

theorem witness_RandomMaskKeepsOnlyMaskedBits : (0x0F : Byte).getLsbD 4 = false := by decide

/-- A drawable and an undrawable sprite, a pixel it covers and one it does not, and a collision. -/
theorem witness_DrawXorsTheSpriteAndReportsCollision :
    (base.setI 0xFFD).I.toNat + (3 : Nibble).toNat ≤ 4096 ∧ (base.setI 0xFFE).I.toNat + (3 : Nibble).toNat > 4096 ∧
    SpriteCovers (withBytes (base.setI 0xFFF) 0xFFF [0x80]) 0x3F 0x1F 1 31 63 ∧ ¬SpriteCovers (withBytes base 0 [0x00]) 0 0 1 0 0 ∧
    (∃ row col, SpriteCovers (withPixel (withBytes (base.setI 0xFFF) 0xFFF [0x80]) 63 31) 0x3F 0x1F 1 row col ∧
      (withPixel (withBytes (base.setI 0xFFF) 0xFFF [0x80]) 63 31).display.pixel row col = true) ∧
    ¬(∃ row col, SpriteCovers base 0 0 0 row col ∧ base.display.pixel row col = true) := by
  have cov : SpriteCovers (withBytes (base.setI 0xFFF) 0xFFF [0x80]) 0x3F 0x1F 1 31 63 := ⟨0, 0, by decide⟩
  refine ⟨by decide, by decide, cov, ?_, ⟨31, 63, cov, by decide⟩, ?_⟩
  · rintro ⟨r, c, hr, -, h, -⟩
    obtain rfl : r = 0 := by omega
    have e : (withBytes base 0 [0x00]).mem.read ((withBytes base 0 [0x00]).I.toNat + 0) = 0 := by decide
    rw [e] at h
    simp at h
  · rintro ⟨row, col, ⟨r, c, h, -⟩, -⟩
    exact absurd h (Nat.not_lt_zero _)

/-- The sprite of V-IO-5, whose coordinates are not register 15, over a clear pixel. -/
theorem witness_DrawingTwiceErases :
    ∃ t, (withBytes (base.setI 0x300) 0x300 [0x80]).I.toNat + (1 : Nibble).toNat ≤ 4096 ∧
      exec (.draw 0 1 1) (withBytes (base.setI 0x300) 0x300 [0x80]) = .next t ∧
      t.reg 0 = (withBytes (base.setI 0x300) 0x300 [0x80]).reg 0 ∧ t.reg 1 = (withBytes (base.setI 0x300) 0x300 [0x80]).reg 1 ∧
      SpriteCovers (withBytes (base.setI 0x300) 0x300 [0x80]) 0 0 1 0 0 ∧
      (withBytes (base.setI 0x300) 0x300 [0x80]).display.pixel 0 0 = false :=
  ⟨_, by decide, rfl, rfl, rfl, ⟨0, 0, by decide⟩, by decide⟩

/-- The last key, down and up. -/
theorem witness_KeySkipsFollowTheKey :
    ∃ _ : ((withRegs [(3, 15)]).reg 3).toNat < 16, (withRegs [(3, 15)]).keys[((withRegs [(3, 15)]).reg 3).toNat] = false ∧
      ({ withRegs [(3, 15)] with keys := Vector.replicate 16 true } : State).keys[((withRegs [(3, 15)]).reg 3).toNat] = true :=
  ⟨by decide, by decide, by decide⟩

theorem witness_WaitKeyHoldsUntilAKeyPress :
    ({ base with keyEvent := some 15 } : State).keyEvent = some 15 ∧ base.keyEvent = none := ⟨rfl, rfl⟩

/-- The step runs `SYS 0x000`. -/
theorem witness_DelayTimerNeverRisesUnlessSet :
    ∃ t, ready.Avoids (fun i => ∃ x, i = .setDelay x) 1 ∧ core.run 1 ready = .next t := by
  refine ⟨ready.envMove.advance, ⟨fun i h => ?_, fun _ _ => trivial⟩, run_succ 0 rfl⟩
  have e : ready.nextInstr = some (.sys 0) := by decide
  rw [e] at h
  rintro ⟨x, rfl⟩
  cases h

theorem witness_SoundTimerIsUnobservable : ∃ s', step ready = .next s' := ⟨_, rfl⟩

end Sys2Proof.Tests
end

section
/-! PROOFS. The memory requests (R53, R54). -/

namespace Sys2Proof.Proofs

open Sys2Proof.Machine

/-- Settles O1: `State.memRead_cases` splits at the end of memory, and a read that is not refused answers `readBytes`, whose
length and bytes the laws of `Memory` give. -/
theorem memReadReturnsBytesOrIsRefused : Obligations.MemReadReturnsBytesOrIsRefused := by
  intro s addr n
  rcases State.memRead_cases s addr n with ⟨beyond, refused⟩ | ⟨inside, answer⟩
  · exact ⟨fun _ => refused, fun inside => absurd beyond (Nat.not_lt.mpr inside)⟩
  · exact ⟨fun beyond => absurd beyond (Nat.not_lt.mpr inside), fun _ =>
      ⟨_, answer, Memory.length_readBytes s.mem addr.toNat n, Memory.getElem_readBytes s.mem addr.toNat n⟩⟩

end Sys2Proof.Proofs
end

section
/-! PROOFS. The decoder against the masks and the field expressions of the document's tables (R82, R85, R89 to R97). -/

namespace Sys2Proof.Proofs

open Sys2Proof.Machine

/-! ### The fields of the word of two bytes, in the document's expressions -/

/-- A mask of the four low bits, as `hi & 0xF` and `lo & 0xF` write it (R82), is the remainder. -/
theorem toNat_and_lowNibble (b : Byte) : (b &&& 0xF).toNat = b.toNat % 16 :=
  Nat.and_two_pow_sub_one_eq_mod b.toNat 4

@[simp] theorem fieldX_instrWord (hi lo : Byte) : fieldX (instrWord hi lo) = docX hi := by
  have := lo.isLt
  rw [fieldX, docX, toNat_and_lowNibble, bits, toNat_instrWord]
  exact Fin.ext (by simp only [Fin.val_ofNat]; omega)

@[simp] theorem fieldY_instrWord (hi lo : Byte) : fieldY (instrWord hi lo) = docY lo := by
  have := lo.isLt
  rw [fieldY, docY, bits, toNat_instrWord, BitVec.toNat_ushiftRight, Nat.shiftRight_eq_div_pow]
  exact Fin.ext (by simp only [Fin.val_ofNat]; omega)

@[simp] theorem fieldN_instrWord (hi lo : Byte) : fieldN (instrWord hi lo) = docN lo := by
  apply BitVec.eq_of_toNat_eq
  rw [fieldN, docN, bits, toNat_instrWord, BitVec.toNat_ofNat, BitVec.toNat_setWidth, toNat_and_lowNibble]
  omega

@[simp] theorem fieldNN_instrWord (hi lo : Byte) : fieldNN (instrWord hi lo) = lo := loByte_instrWord hi lo

theorem toNat_docNNN (hi lo : Byte) : (docNNN hi lo).toNat = hi.toNat % 16 * 256 + lo.toNat := by
  rw [docNNN, BitVec.toNat_append, ← Nat.shiftLeft_add_eq_or_of_lt lo.isLt, Nat.shiftLeft_eq, BitVec.toNat_setWidth,
    toNat_and_lowNibble]
  omega

@[simp] theorem fieldNNN_instrWord (hi lo : Byte) : fieldNNN (instrWord hi lo) = docNNN hi lo := by
  have := lo.isLt
  apply BitVec.eq_of_toNat_eq
  rw [toNat_docNNN, fieldNNN, bits, toNat_instrWord, BitVec.toNat_ofNat]
  omega

/-! ### What a match of a mask says of the bits the decoder looks at -/

/-- The mask `0xF000` keeps `op`, the bits `w[15:12]` (R89). -/
theorem opNibble_of_opMask {w v : Word} (masked : w &&& 0xF000#16 = v) : bits w 15 12 = v.toNat / 0x1000 := by
  have shifted : (w.toNat &&& 0xF000) >>> 12 = w.toNat >>> 12 &&& (2 ^ 4 - 1) := Nat.shiftRight_and_distrib
  rw [Nat.and_two_pow_sub_one_eq_mod, Nat.shiftRight_eq_div_pow, Nat.shiftRight_eq_div_pow] at shifted
  rw [← masked, BitVec.toNat_and]
  exact shifted.symm

/-- The mask `0xF0FF` of format XF keeps `op` (R89). -/
theorem opNibble_of_functionMask {w v : Word} (masked : w &&& 0xF0FF#16 = v) :
    bits w 15 12 = (v &&& 0xF000#16).toNat / 0x1000 :=
  opNibble_of_opMask (by rw [← masked, BitVec.and_assoc]; rfl)

/-- The mask `0xF0FF` of format XF keeps the function byte `w[7:0]` (R96, R97). -/
theorem functionByte_of_functionMask {w v : Word} (masked : w &&& 0xF0FF#16 = v) : bits w 7 0 = v.toNat % 0x100 := by
  have low : w.toNat &&& 0xF0FF &&& (2 ^ 8 - 1) = w.toNat &&& (2 ^ 8 - 1) := Nat.and_assoc w.toNat _ _
  rw [Nat.and_two_pow_sub_one_eq_mod, Nat.and_two_pow_sub_one_eq_mod] at low
  rw [← masked, BitVec.toNat_and, bits, Nat.pow_zero, Nat.div_one]
  exact low.symm

@[simp] theorem functionByte_instrWord (hi lo : Byte) : bits (instrWord hi lo) 7 0 = lo.toNat := by
  have := lo.isLt
  rw [bits, toNat_instrWord]
  omega

/-! ### The groups that look at more of the word than `op` -/

/-- Group 0 (R90): a word that is neither `CLS` nor `RET` is `SYS`. -/
theorem decode_group0_of_ne {hi lo : Byte} (op : bits (instrWord hi lo) 15 12 = 0x0)
    (notCls : instrWord hi lo ≠ 0x00E0#16) (notRet : instrWord hi lo ≠ 0x00EE#16) :
    decode hi lo = .sys (docNNN hi lo) := by
  simp [decode, decodeWord, op, decodeGroup0, notCls, notRet]

/-- Group E (R96): a function byte that selects no instruction gives `UNKNOWN` with the raw bytes. -/
theorem decode_groupE_of_ne {hi lo : Byte} (op : bits (instrWord hi lo) 15 12 = 0xE) (notPressed : lo ≠ 0x9E)
    (notNotPressed : lo ≠ 0xA1) : decode hi lo = .unknown hi lo := by
  simp only [decode, decodeWord, op, decodeGroupE, functionByte_instrWord]
  split
  · next h => exact absurd (BitVec.eq_of_toNat_eq h) notPressed
  · next h => exact absurd (BitVec.eq_of_toNat_eq h) notNotPressed
  · rw [hiByte_instrWord, loByte_instrWord]

/-- Settles O7: a mask fixes the bits the decoder branches on (`opNibble_of_opMask`, `functionByte_of_functionMask`), and the
fields of the word are the document's expressions. -/
theorem decodeByMaskInGroupsTheDocumentGives : Obligations.DecodeByMaskInGroupsTheDocumentGives := by
  intro hi lo
  refine ⟨congrArg decodeWord, congrArg decodeWord, fun h => decode_group0_of_ne (opNibble_of_opMask h),
    ?_, ?_, ?_, ?_, ?_, ?_, ?_, ?_, ?_, ?_, fun h => ?pressed, fun h => ?notPressed,
    fun h => decode_groupE_of_ne (opNibble_of_opMask h)⟩
  case pressed | notPressed =>
    simp [decode, decodeWord, decodeGroupE, opNibble_of_functionMask (w := instrWord hi lo) h,
      functionByte_of_functionMask (w := instrWord hi lo) h]
  -- The other groups have one instruction each, which `op` alone selects (R91, R92, R95).
  all_goals
    intro h
    simp [decode, decodeWord, opNibble_of_opMask (w := instrWord hi lo) h]

end Sys2Proof.Proofs
end

section
/-! PROOFS. Jumps, the call stack and the register skips (R121 to R123, R125 to R128). -/

namespace Sys2Proof.Proofs

open Sys2Proof.Machine

/-! ### The call stack -/

/-- A change of `sp`, the slots and `pc` is all that `CALL` and `RET` do when they complete (R29). -/
theorem onlyStackAndPc_setCallStack_setPc (s : State) (sp : Fin 17) (stack : Vector Word 16) (v : Word) :
    OnlyStackAndPc s ((s.setCallStack sp stack).setPc v) := by
  simp [OnlyStackAndPc, SameRegsBut, SameAddrReg, SameStatus, SameOutside, SameMem, SameDisplay, SameTimers, SameInputs,
    SameDiag]

/-- Settles O30: `JUMP` only sets `pc`, and `exec_call_cases` splits `CALL` at a full stack. -/
theorem jumpAndCallGoToTheTarget : Obligations.JumpAndCallGoToTheTarget := by
  intro nnn s
  refine ⟨⟨_, exec_jump nnn s, toNat_zextAddr nnn, onlyRegsAndPc_setPc s _⟩, ?_⟩
  rcases exec_call_cases nnn s with ⟨full, overflow⟩ | ⟨free, pushed⟩
  · exact ⟨fun free => absurd full free.ne, fun _ => ⟨_, overflow, faultTaken_takeFault s _ _⟩⟩
  · refine ⟨fun _ => ⟨_, pushed, toNat_zextAddr nnn, rfl, fun k => ?slots, onlyStackAndPc_setCallStack_setPc s _ _ _⟩,
      fun full => absurd full free.ne⟩
    case slots => simp [Vector.getElem_set, State.npc_eq, eq_comm]

/-- Settles O32: `exec_ret_cases` splits at an empty stack, and a completed `RET` keeps the slots as they are. -/
theorem retPopsTheReturnAddress : Obligations.RetPopsTheReturnAddress := by
  intro s
  rcases exec_ret_cases s with ⟨empty, underflow⟩ | ⟨held, popped⟩
  · exact ⟨fun held => absurd empty held.ne', fun _ => ⟨_, underflow, faultTaken_takeFault s _ _⟩⟩
  · exact ⟨fun _ => ⟨_, popped, rfl, rfl, fun _ => rfl, onlyStackAndPc_setCallStack_setPc s _ _ _⟩,
      fun empty => absurd empty held.ne'⟩

/-! ### The skips -/

/-- An instruction that goes to `npc + 2` when the test `taken` succeeds and to `npc` when it fails adds 4 or 2 to `pc` and
changes nothing else (R129). `holds` and `fails` are a statement's own words for the two results of the test. -/
theorem skip_adds_four_or_two {i : Instr} {s : State} {taken : Bool} {holds fails : Prop}
    (answer : exec i s = .next (s.setPc (if taken then s.npc + 2 else s.npc)))
    (taken_of_holds : holds → taken = true) (not_taken_of_fails : fails → taken = false) :
    ∃ t, exec i s = .next t ∧ OnlyRegsAndPc [] s t ∧ (holds → t.pc = s.pc + 4) ∧ (fails → t.pc = s.pc + 2) := by
  refine ⟨_, answer, onlyRegsAndPc_setPc s _, fun h => ?four, fun h => ?two⟩
  case four => rw [taken_of_holds h, if_pos rfl, State.setPc_pc, State.npc_add_two]
  case two => rw [not_taken_of_fails h, if_neg Bool.false_ne_true, State.setPc_pc, State.npc_eq]

/-- Settles O35: each skip is `skip_adds_four_or_two` with its comparison, `==` or `!=`, read as an equation. -/
theorem skipsAddTwoOrFour : Obligations.SkipsAddTwoOrFour := fun x y nn s =>
  ⟨skip_adds_four_or_two (exec_skipEqImm x nn s) beq_iff_eq.mpr beq_eq_false_iff_ne.mpr,
    skip_adds_four_or_two (exec_skipNeqImm x nn s) bne_iff_ne.mpr bne_eq_false_iff_eq.mpr,
    skip_adds_four_or_two (exec_skipEqReg x y s) beq_iff_eq.mpr beq_eq_false_iff_ne.mpr,
    skip_adds_four_or_two (exec_skipNeqReg x y s) bne_iff_ne.mpr bne_eq_false_iff_eq.mpr⟩

end Sys2Proof.Proofs
end

section
/-! PROOFS. Register loads and the 8-bit ALU (R142, R144, R148). -/

namespace Sys2Proof.Proofs

open Sys2Proof.Machine

/-- An instruction that only sets `x[X]` to `v` leaves every other register, the flag among them, as it was (R22). -/
theorem setReg_writes_one_register {i : Instr} {s : State} {x : Reg} {v : Byte}
    (answer : exec i s = .next (s.setReg x v).advance) :
    ∃ t, exec i s = .next t ∧ t.reg x = v ∧ t.pc = s.pc + 2 ∧ OnlyRegsAndPc [x] s t :=
  ⟨_, answer, State.reg_setReg_self s x v, State.npc_eq s, onlyRegsAndPc_setReg s x v⟩

/-- Settles O36: both copies are `setReg_writes_one_register`, `MOVE` with the old `x[Y]` as its value. -/
theorem copiesWriteOneRegister : Obligations.CopiesWriteOneRegister := fun x y nn s =>
  ⟨setReg_writes_one_register (exec_loadImm x nn s), setReg_writes_one_register (exec_move x y s)⟩

/-- The flag byte of a decidable condition is the number the rules give: 1 when it holds, else 0 (R22). -/
theorem toNat_flagByte_decide (p : Prop) [Decidable p] : (flagByte (decide p)).toNat = if p then 1 else 0 := by
  by_cases h : p <;> simp [flagByte, h]

/-- An instruction that writes the flag and then `x[X]` leaves the flag's value in register 15 unless that is the
destination (R141). -/
theorem setFlagThenReg_writes_result_and_flag {i : Instr} {s : State} {x : Reg} {flag : Bool} {v : Byte}
    (answer : exec i s = .next (s.setFlagThenReg x flag v).advance) :
    ∃ t, exec i s = .next t ∧ t.reg x = v ∧ (x ≠ 15 → t.reg 15 = flagByte flag) ∧ t.pc = s.pc + 2 ∧
      OnlyRegsAndPc [x, 15] s t :=
  ⟨_, answer, State.reg_setFlagThenReg_self s x flag v, State.reg_setFlagThenReg_flag s flag v, State.npc_eq s,
    onlyRegsAndPc_setFlagThenReg s x flag v⟩

/-- Settles O38: `setFlagThenReg_writes_result_and_flag` with the wrapped sum and `carryOut`, both of the old operands. -/
theorem addWritesSumAndCarry : Obligations.AddWritesSumAndCarry := by
  intro x y s
  obtain ⟨t, answer, result, flag, pc, frame⟩ := setFlagThenReg_writes_result_and_flag (exec_add x y s)
  refine ⟨t, answer, ?sum, fun notFlag => ?carry, pc, frame⟩
  case sum => rw [result, BitVec.toNat_add]
  case carry => rw [flag notFlag, carryOut, toNat_flagByte_decide]

end Sys2Proof.Proofs
end

section
/-! PROOFS. The address register (R161, R163, R212). -/

namespace Sys2Proof.Proofs

open Sys2Proof.Machine

/-- Only `I` and `pc` differ after a write of the address register. -/
theorem onlyAddrRegAndPc_setI (s : State) (v : Word) : OnlyAddrRegAndPc s (s.setI v).advance := by
  simp [OnlyAddrRegAndPc, SameRegsBut, SameStack, SameStatus, SameOutside, SameMem, SameDisplay, SameTimers, SameInputs,
    SameDiag]

/-- `digit_sprite` of a digit 0 to 15 has the value of `DIGIT_ADDR`, which fits the 16 bits of an address (R212). -/
theorem toNat_capDigitSprite_of_lt (s : State) {digit : Byte} (h : digit.toNat < 16) :
    (s.capDigitSprite digit).toNat = (Config.digitAddr ⟨digit.toNat, h⟩).val := by
  have := (Config.digitAddr ⟨digit.toNat, h⟩).isLt
  rw [State.capDigitSprite, dif_pos h, BitVec.toNat_ofNat, Nat.mod_eq_of_lt (by omega)]

/-- Settles O41: `LOAD_ADDR_REG` only sets `I`, to the zero-extended `NNN`. -/
theorem addressRegisterIsLoaded : Obligations.AddressRegisterIsLoaded := fun nnn s =>
  ⟨_, exec_loadAddrReg nnn s, toNat_zextAddr nnn, State.npc_eq s, onlyAddrRegAndPc_setI s (zextAddr nnn)⟩

/-- Settles O43: `ADDR_OF_DIGIT` only sets `I`; the glyph of a digit ends in low memory because `DIGIT_ADDR` is below 508 by
its type. -/
theorem addrOfDigitWritesTheGlyphAddress : Obligations.AddrOfDigitWritesTheGlyphAddress := by
  intro x s
  refine ⟨_, exec_addrOfDigit x s, State.npc_eq s, onlyAddrRegAndPc_setI s _, fun digit => ?glyph⟩
  case glyph =>
    have address := toNat_capDigitSprite_of_lt s digit
    have below := (Config.digitAddr ⟨(s.reg x).toNat, digit⟩).isLt
    rw [State.advance_I, State.setI_I, address]
    exact ⟨rfl, by omega⟩

end Sys2Proof.Proofs
end

section
/-! PROOFS. The display, the random source and the timers (R171, R172, R176, R178, R179). -/

namespace Sys2Proof.Proofs

open Sys2Proof.Machine

/-! ### Frames of the device writes -/

/-- Only the display and `pc` may differ. -/
def OnlyDisplayAndPc (s t : State) : Prop :=
  SameRegsBut [] s t ∧ SameAddrReg s t ∧ SameStack s t ∧ SameStatus s t ∧ SameMem s t ∧ SameTimers s t ∧
  SameInputs s t ∧ SameDiag s t

/-- Only the two timers and `pc` may differ. -/
def OnlyTimersAndPc (s t : State) : Prop :=
  SameRegsBut [] s t ∧ SameAddrReg s t ∧ SameStack s t ∧ SameStatus s t ∧ SameMem s t ∧ SameDisplay s t ∧
  SameInputs s t ∧ SameDiag s t

theorem onlyDisplayAndPc_setDisplay (s : State) (d : Display) : OnlyDisplayAndPc s (s.setDisplay d).advance := by
  simp [OnlyDisplayAndPc, SameRegsBut, SameAddrReg, SameStack, SameStatus, SameMem, SameTimers, SameInputs, SameDiag]

/-- Both timers written, so that a write of one alone is the case in which the other gets the value it has. -/
theorem onlyTimersAndPc_capSetDelay_capSetSound (s : State) (delay sound : Byte) :
    OnlyTimersAndPc s ((s.capSetDelay delay).capSetSound sound).advance := by
  simp [OnlyTimersAndPc, SameRegsBut, SameAddrReg, SameStack, SameStatus, SameMem, SameDisplay, SameInputs, SameDiag]

/-! ### The instructions -/

/-- Settles O48: `CLS` only replaces the display, by the cleared one. -/
theorem clsClearsEveryPixel : Obligations.ClsClearsEveryPixel := fun s =>
  ⟨_, exec_cls s, Display.pixel_clear, State.npc_eq s, onlyDisplayAndPc_setDisplay s Display.clear⟩

/-- Settles O49: `RANDOM_MASK` is `setReg_writes_one_register` with the masked byte, read bit by bit. -/
theorem randomMaskKeepsOnlyMaskedBits : Obligations.RandomMaskKeepsOnlyMaskedBits := by
  intro x nn s
  obtain ⟨t, answer, result, pc, frame⟩ := setReg_writes_one_register (exec_randomMask x nn s)
  have masked (b : Nat) : (t.reg x).getLsbD b = (s.rand.getLsbD b && nn.getLsbD b) := by
    rw [result, BitVec.getLsbD_and]
  refine ⟨t, answer, masked, fun b clear => ?_, pc, frame⟩
  rw [masked, clear, Bool.and_false]

/-- Settles O53: `GET_DELAY` is `setReg_writes_one_register` with the delay timer's value, and each of the other two writes
its timer and keeps the other. -/
theorem timerInstructionsReadAndWrite : Obligations.TimerInstructionsReadAndWrite := fun x s =>
  ⟨setReg_writes_one_register (exec_getDelay x s),
    ⟨_, exec_setDelay x s, rfl, rfl, State.npc_eq s, onlyTimersAndPc_capSetDelay_capSetSound s (s.reg x) s.sound⟩,
    ⟨_, exec_setSound x s, rfl, rfl, State.npc_eq s, onlyTimersAndPc_capSetDelay_capSetSound s s.delay (s.reg x)⟩⟩

end Sys2Proof.Proofs
end

section
/-! PROOFS. Stack overflow after sixteen nested calls (R232). -/

namespace Sys2Proof.Proofs

open Sys2Proof.Machine

/-- A fault commits nothing, a push least of all (R235). -/
theorem sp_eq_of_faultTaken {kind : FaultKind} {addr : Word} {s t : State} (taken : FaultTaken kind addr s t) :
    t.sp = s.sp := by
  obtain ⟨-, -, -, -, -, -, -, ⟨sp, -⟩, -⟩ := taken
  exact sp

/-- A `CALL` that pushes is told from the fault by `sp`, not by the record: a state may hold this very fault already. -/
theorem call_overflows_iff_full (nnn : Addr12) (s : State) :
    (∃ t, exec (.call nnn) s = .next t ∧ FaultTaken .stackOverflow 0 s t) ↔ s.sp.val = 16 := by
  rcases exec_call_cases nnn s with ⟨full, overflow⟩ | ⟨free, pushed⟩
  · exact iff_of_true ⟨_, overflow, faultTaken_takeFault s _ _⟩ full
  · refine iff_of_false ?_ free.ne
    rintro ⟨t, answer, taken⟩
    obtain rfl := Host.Outcome.next.inj (pushed.symm.trans answer)
    exact Nat.succ_ne_self s.sp.val (congrArg Fin.val (sp_eq_of_faultTaken taken))

theorem callAll_cons_of_running {nnn : Addr12} {rest : List Addr12} {s t : State}
    (answer : exec (.call nnn) s = .next t) (running : t.status = .running) :
    callAll (nnn :: rest) s = callAll rest t := by
  simp only [callAll, answer, running, if_true]

/-- Calls for which there are free slots all succeed, each taking one slot. -/
theorem callAll_of_fits (targets : List Addr12) (s : State) (running : s.status = .running)
    (fits : s.sp.val + targets.length ≤ 16) :
    ∃ t, callAll targets s = .next t ∧ t.status = .running ∧ t.sp.val = s.sp.val + targets.length := by
  induction targets generalizing s with
  | nil => exact ⟨s, rfl, running, rfl⟩
  | cons nnn rest ih =>
    rw [List.length_cons] at fits ⊢
    rcases exec_call_cases nnn s with ⟨full, -⟩ | ⟨free, pushed⟩
    · omega
    · have restFits : s.sp.val + 1 + rest.length ≤ 16 := by omega
      rw [callAll_cons_of_running pushed running, Nat.add_comm rest.length, ← Nat.add_assoc]
      exact ih _ running restFits

/-- Settles O34: sixteen calls fill the stack (`callAll_of_fits`), and a full stack is where `CALL` overflows
(`call_overflows_iff_full`). -/
theorem seventeenthNestedCallOverflows : Obligations.SeventeenthNestedCallOverflows := by
  refine ⟨call_overflows_iff_full, fun targets s running empty sixteen => ?_⟩
  have filled : s.sp.val + targets.length = 16 := by simp [empty, sixteen]
  obtain ⟨t, answer, stillRunning, sp⟩ := callAll_of_fits targets s running filled.le
  have full : t.sp.val = 16 := sp.trans filled
  exact ⟨t, answer, stillRunning, full, fun nnn => (call_overflows_iff_full nnn t).mpr full⟩

end Sys2Proof.Proofs
end

section
/-! PROOFS. The encoder against the decoder, and the UNKNOWN space (R80 to R98). -/

namespace Sys2Proof.Proofs

open Sys2Proof.Machine Sys2Proof.Laws

/-! ### The fields of an encoded word -/

@[simp] theorem fieldNNN_formatA (op : Nat) (h : op < 16) (nnn : Addr12) : fieldNNN (formatA op nnn) = nnn := by
  apply BitVec.eq_of_toNat_eq
  rw [fieldNNN, bits, toNat_formatA op h, BitVec.toNat_ofNat]
  omega

@[simp] theorem fieldX_formatXI (op : Nat) (h : op < 16) (x : Reg) (nn : Byte) : fieldX (formatXI op x nn) = x := by
  have := nn.isLt
  rw [fieldX, bits, toNat_formatXI op h]
  exact Fin.ext (by simp only [Fin.val_ofNat]; omega)

@[simp] theorem fieldNN_formatXI (op : Nat) (h : op < 16) (x : Reg) (nn : Byte) : fieldNN (formatXI op x nn) = nn := by
  rw [fieldNN, bits_lo_formatXI op h, BitVec.ofNat_toNat, BitVec.setWidth_eq]

@[simp] theorem fieldX_formatXY (op : Nat) (h : op < 16) (x y : Reg) (n : Nibble) : fieldX (formatXY op x y n) = x := by
  have := n.isLt
  rw [fieldX, bits, toNat_formatXY op h]
  exact Fin.ext (by simp only [Fin.val_ofNat]; omega)

@[simp] theorem fieldY_formatXY (op : Nat) (h : op < 16) (x y : Reg) (n : Nibble) : fieldY (formatXY op x y n) = y := by
  have := n.isLt
  rw [fieldY, bits, toNat_formatXY op h]
  exact Fin.ext (by simp only [Fin.val_ofNat]; omega)

@[simp] theorem fieldN_formatXY (op : Nat) (h : op < 16) (x y : Reg) (n : Nibble) : fieldN (formatXY op x y n) = n := by
  rw [fieldN, bits_lo_formatXY op h, BitVec.ofNat_toNat, BitVec.setWidth_eq]

/-! ### A word put together again from its fields -/

theorem formatA_fieldNNN {op : Nat} {w : Word} (hop : bits w 15 12 = op) : formatA op (fieldNNN w) = w := by
  apply BitVec.eq_of_toNat_eq
  have := w.isLt
  rw [bits] at hop
  rw [toNat_formatA op (by omega), fieldNNN, bits, BitVec.toNat_ofNat]
  omega

theorem formatXI_fieldX {op : Nat} {w : Word} {nn : Byte} (hop : bits w 15 12 = op) (hnn : bits w 7 0 = nn.toNat) :
    formatXI op (fieldX w) nn = w := by
  apply BitVec.eq_of_toNat_eq
  have := w.isLt
  rw [bits] at hop hnn
  rw [toNat_formatXI op (by omega), fieldX, bits, Fin.val_ofNat]
  omega

theorem formatXY_fieldX_fieldY {op : Nat} {w : Word} {n : Nibble} (hop : bits w 15 12 = op)
    (hn : bits w 3 0 = n.toNat) : formatXY op (fieldX w) (fieldY w) n = w := by
  apply BitVec.eq_of_toNat_eq
  have := w.isLt
  rw [bits] at hop hn
  rw [toNat_formatXY op (by omega), fieldX, fieldY, bits, bits, Fin.val_ofNat, Fin.val_ofNat]
  omega

/-! ### The UNKNOWN space (R98) -/

@[simp] theorem opNibble_instrWord (hi lo : Byte) : bits (instrWord hi lo) 15 12 = hi.toNat / 16 := by
  have := hi.isLt
  have := lo.isLt
  rw [bits, toNat_instrWord]
  omega

@[simp] theorem functionNibble_instrWord (hi lo : Byte) : bits (instrWord hi lo) 3 0 = lo.toNat % 16 := by
  rw [bits, toNat_instrWord]
  omega

theorem decodeGroup8_eq_unknown_iff (w : Word) (h l : Byte) :
    decodeGroup8 w = .unknown h l ↔ bits w 3 0 ∉ group8Functions ∧ hiByte w = h ∧ loByte w = l := by
  unfold decodeGroup8
  split <;> simp_all [group8Functions]

theorem decodeGroupE_eq_unknown_iff (w : Word) (h l : Byte) :
    decodeGroupE w = .unknown h l ↔ bits w 7 0 ∉ groupEFunctions ∧ hiByte w = h ∧ loByte w = l := by
  unfold decodeGroupE
  split <;> simp_all [groupEFunctions]

theorem decodeGroupF_eq_unknown_iff (w : Word) (h l : Byte) :
    decodeGroupF w = .unknown h l ↔ bits w 7 0 ∉ groupFFunctions ∧ hiByte w = h ∧ loByte w = l := by
  unfold decodeGroupF
  split <;> simp_all [groupFFunctions]

theorem decodeGroup0_ne_unknown (w : Word) (h l : Byte) : decodeGroup0 w ≠ .unknown h l := by
  unfold decodeGroup0
  split
  · simp
  · split <;> simp

theorem unknownSpace_iff (hi lo : Byte) :
    unknownSpace hi lo = true ↔
      (hi.toNat / 16 = 0x8 ∧ lo.toNat % 16 ∉ group8Functions) ∨ (hi.toNat / 16 = 0xE ∧ lo.toNat ∉ groupEFunctions) ∨
      (hi.toNat / 16 = 0xF ∧ lo.toNat ∉ groupFFunctions) := by
  simp [unknownSpace, or_assoc]

/-- The decoder answers `UNKNOWN` in the UNKNOWN space only, and there with the raw bytes. -/
theorem decode_eq_unknown_iff (hi lo h l : Byte) :
    decode hi lo = .unknown h l ↔ unknownSpace hi lo = true ∧ hi = h ∧ lo = l := by
  have := hi.isLt
  rw [unknownSpace_iff, decode, decodeWord, opNibble_instrWord]
  -- The cases are the rows of `decodeWord`: `h_1` is `op` = 0, and `h_16` what is left, `op` = F.
  split
  case h_1 op => simp [op, decodeGroup0_ne_unknown]
  case h_9 op => simp [op, decodeGroup8_eq_unknown_iff]
  case h_15 op => simp [op, decodeGroupE_eq_unknown_iff]
  case h_16 =>
    have op : hi.toNat / 16 = 0xF := by grind
    simp [op, decodeGroupF_eq_unknown_iff]
  all_goals
    next op => simp [op]

/-- A `SYS` word is neither `CLS` nor `RET` when its operand is not theirs (R90). -/
theorem decodeWord_encode_sys {nnn : Addr12} (notCls : nnn ≠ 0x0E0) (notRet : nnn ≠ 0x0EE) :
    decodeWord (encode (.sys nnn)) = .sys nnn := by
  have word : fieldNNN (formatA 0x0 nnn) = nnn := fieldNNN_formatA 0x0 (by decide) nnn
  have isCls : formatA 0x0 nnn ≠ 0x00E0 := fun e => notCls (by rw [← word, e]; rfl)
  have isRet : formatA 0x0 nnn ≠ 0x00EE := fun e => notRet (by rw [← word, e]; rfl)
  simp only [encode, decodeWord, bits_op_formatA, decodeGroup0, Nat.ofNat_pos, if_neg isCls, if_neg isRet, word]

/-- Settles O3: the fields of a format's word are the operands put in, so the decoder's branches lead back to the
instruction; the raw bytes of an `UNKNOWN` are those of `decode_eq_unknown_iff`. -/
theorem decodeOfEncodeIsIdentity : Obligations.DecodeOfEncodeIsIdentity := by
  intro i wf
  rw [decode, instrWord_hiByte_loByte]
  cases i
  case cls | ret => rfl
  case sys nnn =>
    obtain ⟨notCls, notRet⟩ : nnn ≠ 0x0E0 ∧ nnn ≠ 0x0EE := by simpa [Instr.WellFormed, Instr.wf] using wf
    exact decodeWord_encode_sys notCls notRet
  case unknown hi lo => exact (decode_eq_unknown_iff hi lo hi lo).mpr ⟨wf, rfl, rfl⟩
  all_goals
    simp [encode, decodeWord, decodeGroup8, decodeGroupE, decodeGroupF, bits_op_formatA, bits_op_formatXI,
      bits_lo_formatXI, bits_op_formatXY, bits_lo_formatXY]

/-! ### Words that decode back and forth -/

theorem encode_decodeGroup0 {w : Word} (op : bits w 15 12 = 0x0) : encode (decodeGroup0 w) = w := by
  unfold decodeGroup0
  split
  · next isCls => exact isCls.symm
  · split
    · next isRet => exact isRet.symm
    · exact formatA_fieldNNN op

theorem encode_decodeGroup8 {w : Word} (op : bits w 15 12 = 0x8) : encode (decodeGroup8 w) = w := by
  unfold decodeGroup8
  split
  case h_10 => exact instrWord_hiByte_loByte w
  all_goals
    next function => exact formatXY_fieldX_fieldY op function

theorem encode_decodeGroupE {w : Word} (op : bits w 15 12 = 0xE) : encode (decodeGroupE w) = w := by
  unfold decodeGroupE
  split
  case h_3 => exact instrWord_hiByte_loByte w
  all_goals
    next function => exact formatXI_fieldX op function

theorem encode_decodeGroupF {w : Word} (op : bits w 15 12 = 0xF) : encode (decodeGroupF w) = w := by
  unfold decodeGroupF
  split
  case h_10 => exact instrWord_hiByte_loByte w
  all_goals
    next function => exact formatXI_fieldX op function

/-- Settles O4: every format puts a word together again from the fields the decoder took (`formatA_fieldNNN`,
`formatXI_fieldX`, `formatXY_fieldX_fieldY`), and only groups 5 and 9 leave out a field, the low nibble. -/
theorem encodeOfDecodeIsIdentity : Obligations.EncodeOfDecodeIsIdentity := by
  intro hi lo lowNibble
  have := hi.isLt
  have byte : bits (instrWord hi lo) 7 0 = (fieldNN (instrWord hi lo)).toNat := by simp
  have nibble : bits (instrWord hi lo) 3 0 = (fieldN (instrWord hi lo)).toNat := by
    rw [fieldN, BitVec.toNat_ofNat, Nat.mod_eq_of_lt (by simp; omega)]
  rw [← opNibble_instrWord hi lo, ← functionNibble_instrWord hi lo] at lowNibble
  rw [decode, decodeWord]
  -- The cases are the rows of `decodeWord`: `h_1` is `op` = 0, and `h_16` what is left, `op` = F.
  split
  case h_1 op => exact encode_decodeGroup0 op
  case h_6 op => exact formatXY_fieldX_fieldY op (lowNibble (.inl op))
  case h_9 op => exact encode_decodeGroup8 op
  case h_10 op => exact formatXY_fieldX_fieldY op (lowNibble (.inr op))
  case h_14 op => exact formatXY_fieldX_fieldY op nibble
  case h_15 op => exact encode_decodeGroupE op
  case h_16 => exact encode_decodeGroupF (by grind [opNibble_instrWord])
  case h_2 op | h_3 op | h_11 op | h_12 op => exact formatA_fieldNNN op
  all_goals
    next op => exact formatXI_fieldX op byte

/-- A word of group 0 that is neither `CLS` nor `RET` holds neither's address (R90). -/
theorem wellFormed_decodeGroup0 {w : Word} (op : bits w 15 12 = 0x0) : (decodeGroup0 w).WellFormed := by
  have word : formatA 0x0 (fieldNNN w) = w := formatA_fieldNNN op
  unfold decodeGroup0
  split
  · rfl
  · next notCls =>
    split
    · rfl
    · next notRet =>
      have address : fieldNNN w ≠ 0x0E0 ∧ fieldNNN w ≠ 0x0EE :=
        ⟨fun e => notCls (by rw [← word, e]; rfl), fun e => notRet (by rw [← word, e]; rfl)⟩
      simpa [Instr.WellFormed, Instr.wf] using address

/-- `SYS` lies in group 0 alone. -/
theorem opNibble_of_decode_eq_sys {hi lo : Byte} {nnn : Addr12} (h : decode hi lo = .sys nnn) :
    bits (instrWord hi lo) 15 12 = 0x0 := by
  rw [decode, decodeWord] at h
  split at h
  case h_1 op => exact op
  case h_9 => unfold decodeGroup8 at h; split at h <;> cases h
  case h_15 => unfold decodeGroupE at h; split at h <;> cases h
  case h_16 => unfold decodeGroupF at h; split at h <;> cases h
  all_goals cases h

/-- Settles O5: the two forms that can be ill-formed are `SYS`, which group 0 alone gives, and `UNKNOWN`, which lies in
the UNKNOWN space by `decode_eq_unknown_iff`. -/
theorem decodeIsAlwaysWellFormed : Obligations.DecodeIsAlwaysWellFormed := by
  intro hi lo
  cases h : decode hi lo
  case sys nnn =>
    have op := opNibble_of_decode_eq_sys h
    have group : decode hi lo = decodeGroup0 (instrWord hi lo) := by simp only [decode, decodeWord, op]
    exact h ▸ group ▸ wellFormed_decodeGroup0 op
  case unknown =>
    obtain ⟨inSpace, rfl, rfl⟩ := (decode_eq_unknown_iff _ _ _ _).mp h
    exact inSpace
  all_goals rfl

/-! ### The document's expressions for the nibbles (R82) -/

theorem highNibble_eq_iff (b v : Byte) : b >>> 4 = v ↔ b.toNat / 16 = v.toNat := by
  rw [← BitVec.toNat_inj, BitVec.toNat_ushiftRight, Nat.shiftRight_eq_div_pow]

theorem lowNibble_eq_iff (b v : Byte) : b &&& 0xF = v ↔ b.toNat % 16 = v.toNat := by
  rw [← BitVec.toNat_inj, toNat_and_lowNibble]

/-- The function values of group 8 that R98 counts as UNKNOWN. -/
theorem notMem_group8Functions_iff (lo : Byte) :
    lo.toNat % 16 ∉ group8Functions ↔
      lo &&& 0xF = 0x8 ∨ lo &&& 0xF = 0x9 ∨ lo &&& 0xF = 0xA ∨ lo &&& 0xF = 0xB ∨ lo &&& 0xF = 0xC ∨
        lo &&& 0xF = 0xD ∨ lo &&& 0xF = 0xF := by
  simp only [lowNibble_eq_iff]
  simp only [group8Functions, List.mem_cons, List.not_mem_nil, or_false, not_or, BitVec.ofNat_eq_ofNat,
    BitVec.reduceToNat]
  omega

/-- The function values of group E that R98 counts as UNKNOWN. -/
theorem notMem_groupEFunctions_iff (lo : Byte) : lo.toNat ∉ groupEFunctions ↔ lo ≠ 0x9E ∧ lo ≠ 0xA1 := by
  simp [groupEFunctions, ← BitVec.toNat_inj]

/-- The function values of group F that R98 counts as UNKNOWN. -/
theorem notMem_groupFFunctions_iff (lo : Byte) :
    lo.toNat ∉ groupFFunctions ↔ lo ≠ 0x07 ∧ lo ≠ 0x0A ∧ lo ≠ 0x15 ∧ lo ≠ 0x18 ∧ lo ≠ 0x1E ∧ lo ≠ 0x29 ∧ lo ≠ 0x33 ∧
      lo ≠ 0x55 ∧ lo ≠ 0x65 := by
  simp [groupFFunctions, ← BitVec.toNat_inj]

/-- Settles O6: `decode_eq_unknown_iff`, with the UNKNOWN space in the document's expressions. -/
theorem unknownSpaceIsExact : Obligations.UnknownSpaceIsExact := by
  intro hi lo
  constructor
  · rw [← notMem_group8Functions_iff, ← notMem_groupEFunctions_iff, ← notMem_groupFFunctions_iff]
    simp only [highNibble_eq_iff, decode_eq_unknown_iff]
    exact Iff.trans ⟨fun ⟨_, _, inSpace, _⟩ => inSpace, fun inSpace => ⟨hi, lo, inSpace, rfl, rfl⟩⟩
      (unknownSpace_iff hi lo)
  · intro h l unknown
    obtain ⟨-, rfl, rfl⟩ := (decode_eq_unknown_iff hi lo h l).mp unknown
    exact ⟨rfl, rfl⟩

/-- The mask `0xF00F` of format XYF keeps `op` (R89). -/
theorem opNibble_of_nibbleMask {w v : Word} (masked : w &&& 0xF00F#16 = v) :
    bits w 15 12 = (v &&& 0xF000#16).toNat / 0x1000 :=
  opNibble_of_opMask (by rw [← masked, BitVec.and_assoc]; rfl)

/-- The mask `0xF00F` of format XYF keeps the function nibble `w[3:0]` (R94). -/
theorem functionNibble_of_nibbleMask {w v : Word} (masked : w &&& 0xF00F#16 = v) : bits w 3 0 = v.toNat % 0x10 := by
  have low : w.toNat &&& 0xF00F &&& (2 ^ 4 - 1) = w.toNat &&& (2 ^ 4 - 1) := Nat.and_assoc w.toNat _ _
  rw [Nat.and_two_pow_sub_one_eq_mod, Nat.and_two_pow_sub_one_eq_mod] at low
  rw [← masked, BitVec.toNat_and, bits, Nat.pow_zero, Nat.div_one]
  exact low.symm

/-- Settles O8: a mask fixes the bits the decoder branches on, and the words left over lie in the UNKNOWN space. -/
theorem decodeByMaskInGroups5And8And9 : Obligations.DecodeByMaskInGroups5And8And9 := by
  intro hi lo
  refine ⟨fun h => ?group5, fun h => ?group9, fun h => ?_, fun h => ?_, fun h => ?_, fun h => ?_,
    fun h => ?_, fun h => ?_, fun h => ?_, fun h => ?_, fun h => ?_, fun h function => ?unknown⟩
  case group5 | group9 => simp [decode, decodeWord, opNibble_of_opMask (w := instrWord hi lo) h]
  case unknown =>
    have op : hi.toNat / 16 = 0x8 := opNibble_instrWord hi lo ▸ opNibble_of_opMask h
    have inSpace := (unknownSpace_iff hi lo).mpr (.inl ⟨op, (notMem_group8Functions_iff lo).mpr function⟩)
    exact (decode_eq_unknown_iff hi lo hi lo).mpr ⟨inSpace, rfl, rfl⟩
  all_goals
    simp [decode, decodeWord, decodeGroup8, opNibble_of_nibbleMask (w := instrWord hi lo) h,
      functionNibble_of_nibbleMask (w := instrWord hi lo) h, -functionNibble_instrWord, -opNibble_instrWord]

/-- Settles O9: as O8, with the function byte of format XF. -/
theorem decodeByMaskInGroupF : Obligations.DecodeByMaskInGroupF := by
  intro hi lo
  refine ⟨fun h => ?_, fun h => ?_, fun h => ?_, fun h => ?_, fun h => ?_, fun h => ?_, fun h => ?_,
    fun h => ⟨?_, rfl⟩, fun h => ⟨?_, rfl⟩, fun h n07 n0A n15 n18 n1E n29 n33 n55 n65 => ?unknown⟩
  case unknown =>
    have op : hi.toNat / 16 = 0xF := opNibble_instrWord hi lo ▸ opNibble_of_opMask h
    have function := (notMem_groupFFunctions_iff lo).mpr ⟨n07, n0A, n15, n18, n1E, n29, n33, n55, n65⟩
    have inSpace := (unknownSpace_iff hi lo).mpr (.inr (.inr ⟨op, function⟩))
    exact (decode_eq_unknown_iff hi lo hi lo).mpr ⟨inSpace, rfl, rfl⟩
  all_goals
    simp [decode, decodeWord, decodeGroupF, opNibble_of_functionMask (w := instrWord hi lo) h,
      functionByte_of_functionMask (w := instrWord hi lo) h, -functionByte_instrWord, -opNibble_instrWord]

/-- Settles O10: the decoder computes each word's instruction. -/
theorem wordsWrittenOutDecode : Obligations.WordsWrittenOutDecode := by
  unfold Obligations.WordsWrittenOutDecode
  decide

end Sys2Proof.Proofs
end

section
/-! PROOFS. Every instruction at once: a due fault is taken, and without one each field of the state gets its value from
one small function, so that a claim about all instructions is a claim about the functions of the fields it speaks of
(R111). -/

namespace Sys2Proof.Proofs

open Sys2Proof.Machine

/-! ### The fields after a completed step -/

/-- The general registers after a completed step (R21, R22, R141). -/
def regsAfter : Instr → State → Vector Byte 16
  | .loadImm x nn, s => (s.setReg x nn).x
  | .addImm x nn, s => (s.setReg x (s.reg x + nn)).x
  | .move x y, s => (s.setReg x (s.reg y)).x
  | .or x y, s => (s.setReg x (s.reg x ||| s.reg y)).x
  | .and x y, s => (s.setReg x (s.reg x &&& s.reg y)).x
  | .xor x y, s => (s.setReg x (s.reg x ^^^ s.reg y)).x
  | .add x y, s => (s.setFlagThenReg x (carryOut (s.reg x) (s.reg y)) (s.reg x + s.reg y)).x
  | .sub x y, s => (s.setFlagThenReg x (greater (s.reg x) (s.reg y)) (s.reg x - s.reg y)).x
  | .shr x _, s => (s.setFlagThenReg x (lowBit (s.reg x)) (s.reg x >>> 1)).x
  | .subn x y, s => (s.setFlagThenReg x (greater (s.reg y) (s.reg x)) (s.reg y - s.reg x)).x
  | .shl x _, s => (s.setFlagThenReg x (topBit (s.reg x)) (s.reg x <<< 1)).x
  | .randomMask x nn, s => (s.setReg x (s.rand &&& nn)).x
  | .getDelay x, s => (s.setReg x s.delay).x
  | .waitKey x, s => s.keyEvent.elim s.x fun key => (s.setReg x (BitVec.ofNat 8 key.val)).x
  | .restoreRegs x, s => Vector.ofFn fun k => if k ≤ x then s.mem.read (s.I.toNat + k.val) else s.reg k
  | .draw x y n, s =>
    (s.setReg flagReg (flagByte (s.capDraw (s.mem.readBytes s.I.toNat n.toNat) (s.reg x) (s.reg y)).2)).x
  | _, s => s.x

/-- `I` after a completed step (R23). -/
def addrRegAfter : Instr → State → Word
  | .loadAddrReg nnn, _ => zextAddr nnn
  | .addToAddr x, s => s.I + zextByte (s.reg x)
  | .addrOfDigit x, s => s.capDigitSprite (s.reg x)
  | _, s => s.I

/-- `sp` after a completed step (R29). -/
def spAfter : Instr → State → Fin 17
  | .ret, s => ⟨s.sp.val - 1, by omega⟩
  | .call _, s => Fin.ofNat 17 (s.sp.val + 1)
  | _, s => s.sp

/-- The stack slots after a completed step (R29, R30). -/
def stackAfter : Instr → State → Vector Word 16
  | .call _, s => s.stack.setIfInBounds s.sp.val s.npc
  | _, s => s.stack

/-- Memory after a completed step (R57). -/
def memAfter : Instr → State → Memory
  | .storeBcd x, s => s.mem.writeBytes s.I.toNat (bcd (s.reg x))
  | .saveRegs x, s => s.mem.writeBytes s.I.toNat (s.firstRegs (regCount x))
  | _, s => s.mem

/-- The display after a completed step (R204, R205). -/
def displayAfter : Instr → State → Display
  | .cls, _ => Display.clear
  | .draw x y n, s => (s.capDraw (s.mem.readBytes s.I.toNat n.toNat) (s.reg x) (s.reg y)).1.display
  | _, s => s.display

/-- The delay timer after a completed step (R210). -/
def delayAfter : Instr → State → Byte
  | .setDelay x, s => s.reg x
  | _, s => s.delay

/-- The sound timer after a completed step (R211). -/
def soundAfter : Instr → State → Byte
  | .setSound x, s => s.reg x
  | _, s => s.sound

/-- The pending key-press event after a completed step (R208). -/
def keyEventAfter : Instr → State → Option (Fin 16)
  | .waitKey _, _ => none
  | _, s => s.keyEvent

/-- The diagnostic events after a completed step (R218). -/
def diagAfter : Instr → State → List UnknownOpcode
  | .unknown hi lo, s => s.diag ++ [⟨s.pc, hi, lo⟩]
  | _, s => s.diag

/-- The state after a step that is due no fault; `pc` follows the table of R129. -/
def completed (i : Instr) (s : State) : State :=
  { s with
    x := regsAfter i s, I := addrRegAfter i s, pc := tablePc i s, sp := spAfter i s, stack := stackAfter i s,
    mem := memAfter i s, display := displayAfter i s, delay := delayAfter i s, sound := soundAfter i s,
    keyEvent := keyEventAfter i s, diag := diagAfter i s }

/-! ### Every instruction is one of the two -/

/-- The exact sum of `JUMP_OFFSET` as the table of R129 writes it. -/
theorem indexedTarget_eq_tablePc (nnn : Addr12) (s : State) : s.indexedTarget nnn = tablePc (.jumpOffset nnn) s := by
  apply BitVec.eq_of_toNat_eq
  have := nnn.isLt
  have := (s.reg 0).isLt
  rw [State.toNat_indexedTarget, tablePc, BitVec.toNat_ofNat, Nat.mod_eq_of_lt (by omega)]

theorem zextAddr_eq_ofNat (nnn : Addr12) : zextAddr nnn = BitVec.ofNat 16 nnn.toNat := (BitVec.ofNat_toNat 16 nnn).symm

/-- The two targets of a skip as the table of R129 writes them. -/
theorem skip_target (s : State) {taken : Bool} {p : Prop} [Decidable p] (h : taken = true ↔ p) :
    (if taken then s.npc + 2 else s.npc) = if p then s.pc + 4 else s.pc + 2 := by
  rw [State.npc_add_two, State.npc_eq]
  exact ite_congr (propext h) (fun _ => rfl) fun _ => rfl

theorem answer_of_target {i : Instr} {s : State} {v : Word} (answer : exec i s = .next (s.setPc v))
    (target : v = tablePc i s) : exec i s = .next (s.setPc (tablePc i s)) :=
  target ▸ answer

/-- The registers `RESTORE_REGS` leaves, one by one (R166). -/
theorem setRegsFrom_readBytes_x (s : State) (x : Reg) :
    (s.setRegsFrom 0 (s.mem.readBytes s.I.toNat (x.val + 1))).x = regsAfter (.restoreRegs x) s := by
  ext k hk : 1
  have loaded := State.reg_setRegsFrom s 0 (s.mem.readBytes s.I.toNat (x.val + 1)) ⟨k, hk⟩
  rw [State.reg] at loaded
  simp only [loaded, regsAfter, Vector.getElem_ofFn, Memory.length_readBytes, Memory.getElem_readBytes, Nat.zero_le,
    true_and, Nat.zero_add, Nat.sub_zero, Nat.lt_succ_iff, Fin.le_def, dite_eq_ite]

/-- `CALL` with a free slot (R29, R123). -/
theorem exec_call_of_free {s : State} (nnn : Addr12) (free : s.sp.val < 16) :
    exec (.call nnn) s = .next (completed (.call nnn) s) := by
  rcases exec_call_cases nnn s with ⟨full, -⟩ | ⟨_, answer⟩
  · exact absurd full free.ne
  · have sp : (⟨s.sp.val + 1, Nat.succ_lt_succ free⟩ : Fin 17) = spAfter (.call nnn) s :=
      Fin.ext (Nat.mod_eq_of_lt (Nat.succ_lt_succ free)).symm
    have slots : s.stack.set s.sp.val s.npc = stackAfter (.call nnn) s := by
      ext k hk : 1
      rw [stackAfter, Vector.getElem_set, Vector.getElem_setIfInBounds]
    rw [answer, sp, slots, zextAddr_eq_ofNat]
    rfl

/-- `WAIT_KEY`, held or not (R177). -/
theorem exec_waitKey (x : Reg) (s : State) : exec (.waitKey x) s = .next (completed (.waitKey x) s) := by
  rcases exec_waitKey_cases x s with ⟨held, answer⟩ | ⟨key, event, answer⟩
  · have regs : regsAfter (.waitKey x) s = s.x := by simp [regsAfter, held]
    have pc : tablePc (.waitKey x) s = s.pc := if_pos held
    have event : keyEventAfter (.waitKey x) s = s.keyEvent := held.symm
    rw [answer, completed, regs, pc, event]
    rfl
  · have regs : regsAfter (.waitKey x) s = (s.setReg x (BitVec.ofNat 8 key.val)).x := by simp [regsAfter, event]
    have pc : tablePc (.waitKey x) s = s.npc := if_neg (event ▸ Option.some_ne_none key)
    rw [answer, completed, regs, pc]
    rfl

/-- Every instruction takes the fault it is due by the table of R230, or completes. -/
theorem exec_cases (i : Instr) (s : State) :
    (∃ k a, dueFault i s = some (k, a) ∧ exec i s = .next (s.takeFault k a)) ∨
    (dueFault i s = none ∧ exec i s = .next (completed i s)) := by
  cases i
  case ret =>
    rcases exec_ret_cases s with ⟨empty, answer⟩ | ⟨held, answer⟩
    · exact .inl ⟨_, _, if_pos empty, answer⟩
    · exact .inr ⟨if_neg held.ne', answer⟩
  case call nnn =>
    rcases exec_call_cases nnn s with ⟨full, answer⟩ | ⟨free, -⟩
    · exact .inl ⟨_, _, if_pos full, answer⟩
    · exact .inr ⟨if_neg free.ne, exec_call_of_free nnn free⟩
  case storeBcd x =>
    rcases exec_storeBcd_cases x s with ⟨beyond, answer⟩ | ⟨inside, answer⟩
    · exact .inl ⟨_, _, if_pos beyond, answer⟩
    · exact .inr ⟨if_neg inside.not_gt, answer⟩
  case saveRegs x =>
    rcases exec_saveRegs_cases x s with ⟨beyond, answer⟩ | ⟨inside, answer⟩
    · exact .inl ⟨_, _, if_pos beyond, answer⟩
    · exact .inr ⟨if_neg inside.not_gt, answer⟩
  case restoreRegs x =>
    rcases exec_restoreRegs_cases x s with ⟨beyond, answer⟩ | ⟨inside, answer⟩
    · exact .inl ⟨_, _, if_pos beyond, answer⟩
    · rw [State.setRegsFrom_eq, setRegsFrom_readBytes_x] at answer
      exact .inr ⟨if_neg inside.not_gt, answer⟩
  case draw x y n =>
    rcases exec_draw_cases x y n s with ⟨beyond, answer⟩ | ⟨inside, answer⟩
    · exact .inl ⟨_, _, if_pos beyond, answer⟩
    · exact .inr ⟨if_neg inside.not_gt, answer⟩
  case waitKey x => exact .inr ⟨rfl, exec_waitKey x s⟩
  case jump nnn => exact .inr ⟨rfl, answer_of_target (exec_jump nnn s) (zextAddr_eq_ofNat nnn)⟩
  case jumpOffset nnn =>
    exact .inr ⟨rfl, answer_of_target (exec_jumpOffset nnn s) (indexedTarget_eq_tablePc nnn s)⟩
  case skipEqImm x nn => exact .inr ⟨rfl, answer_of_target (exec_skipEqImm x nn s) (skip_target s beq_iff_eq)⟩
  case skipNeqImm x nn => exact .inr ⟨rfl, answer_of_target (exec_skipNeqImm x nn s) (skip_target s bne_iff_ne)⟩
  case skipEqReg x y => exact .inr ⟨rfl, answer_of_target (exec_skipEqReg x y s) (skip_target s beq_iff_eq)⟩
  case skipNeqReg x y => exact .inr ⟨rfl, answer_of_target (exec_skipNeqReg x y s) (skip_target s bne_iff_ne)⟩
  case skipIfPressed x => exact .inr ⟨rfl, answer_of_target (exec_skipIfPressed x s) (skip_target s .rfl)⟩
  case skipIfNotPressed x =>
    exact .inr ⟨rfl, answer_of_target (exec_skipIfNotPressed x s) (skip_target s (by rw [Bool.not_eq_true']))⟩
  all_goals exact .inr ⟨rfl, rfl⟩

/-- A due fault is taken. -/
theorem exec_of_due {i : Instr} {s : State} {k : FaultKind} {a : Word} (due : dueFault i s = some (k, a)) :
    exec i s = .next (s.takeFault k a) := by
  rcases exec_cases i s with ⟨k', a', due', fault⟩ | ⟨notDue, -⟩
  · obtain ⟨rfl, rfl⟩ := Prod.mk.inj (Option.some.inj (due'.symm.trans due))
    exact fault
  · exact nomatch notDue.symm.trans due

/-- An instruction that is due no fault completes. -/
theorem exec_of_not_due {i : Instr} {s : State} (notDue : dueFault i s = none) :
    exec i s = .next (completed i s) := by
  rcases exec_cases i s with ⟨k, a, due, -⟩ | ⟨-, done⟩
  · exact nomatch notDue.symm.trans due
  · exact done

/-- The table of R230 looks at `sp` and `I` alone. -/
theorem dueFault_congr (i : Instr) {s t : State} (sp : t.sp = s.sp) (addr : t.I = s.I) :
    dueFault i t = dueFault i s := by
  cases i
  case ret | call => simp only [dueFault, sp]
  case draw | storeBcd | saveRegs | restoreRegs => simp only [dueFault, addr]
  all_goals rfl

/-! ### What it says that a fault is not due (R230) -/

theorem held_of_not_due {s : State} (notDue : dueFault .ret s = none) : 0 < s.sp.val :=
  Nat.pos_of_ne_zero fun empty => nomatch notDue.symm.trans (if_pos empty)

theorem free_of_not_due {nnn : Addr12} {s : State} (notDue : dueFault (.call nnn) s = none) : s.sp.val < 16 :=
  Nat.lt_of_le_of_ne (Nat.le_of_lt_succ s.sp.isLt) fun full => nomatch notDue.symm.trans (if_pos full)

theorem digits_inside_of_not_due {x : Reg} {s : State} (notDue : dueFault (.storeBcd x) s = none) :
    s.I.toNat + 3 ≤ 4096 :=
  Nat.le_of_not_gt fun beyond => nomatch notDue.symm.trans (if_pos beyond)

theorem registers_inside_of_not_due {x : Reg} {s : State} (notDue : dueFault (.saveRegs x) s = none) :
    s.I.toNat + (x.val + 1) ≤ 4096 :=
  Nat.le_of_not_gt fun beyond => nomatch notDue.symm.trans (if_pos beyond)

/-! ### Reasoning from an answer -/

/-- The two things an answer can be. -/
theorem exec_next_cases {i : Instr} {s t : State} (answer : exec i s = .next t) :
    (∃ k a, dueFault i s = some (k, a) ∧ t = s.takeFault k a) ∨ (dueFault i s = none ∧ t = completed i s) := by
  rcases exec_cases i s with ⟨k, a, due, fault⟩ | ⟨due, done⟩
  · exact .inl ⟨k, a, due, Host.Outcome.next.inj (answer.symm.trans fault)⟩
  · exact .inr ⟨due, Host.Outcome.next.inj (answer.symm.trans done)⟩

/-- A completed step leaves the core RUNNING, so a RUNNING core that ends FAULTED took the fault that was due. -/
theorem exec_faulted {i : Instr} {s t : State} (running : s.status = .running) (answer : exec i s = .next t)
    (faulted : t.status = .faulted) : ∃ k a, dueFault i s = some (k, a) ∧ t = s.takeFault k a := by
  rcases exec_next_cases answer with fault | ⟨-, rfl⟩
  · exact fault
  · exact absurd (running.symm.trans faulted) Status.noConfusion

/-- An instruction that ends RUNNING was due no fault and has completed. -/
theorem exec_running {i : Instr} {s t : State} (answer : exec i s = .next t) (running : t.status = .running) :
    dueFault i s = none ∧ t = completed i s := by
  rcases exec_next_cases answer with ⟨k, a, -, rfl⟩ | done
  · exact Status.noConfusion running
  · exact done

/-- Two states that are due the same fault are answered with related states, when taking a fault and completing both
relate them: the frame of every noninterference claim. -/
theorem exec_related {i : Instr} {s s' t : State} (R : State → State → Prop) (answer : exec i s = .next t)
    (due : dueFault i s' = dueFault i s) (fault : ∀ k a, R (s.takeFault k a) (s'.takeFault k a))
    (done : dueFault i s = none → R (completed i s) (completed i s')) : ∃ t', exec i s' = .next t' ∧ R t t' := by
  rcases exec_next_cases answer with ⟨k, a, isDue, rfl⟩ | ⟨notDue, rfl⟩
  · exact ⟨_, exec_of_due (due.trans isDue), fault k a⟩
  · exact ⟨_, exec_of_not_due (due.trans notDue), done notDue⟩

end Sys2Proof.Proofs
end

section
/-! PROOFS. The frames of all instructions: what each may write, and what it may depend on (R21 to R31, R57, R129,
R167). -/

namespace Sys2Proof.Proofs

open Sys2Proof.Machine

/-! ### `pc` and `sp` -/

/-- The stack pointer of a completed step is the table's (R129). -/
theorem spAfter_val {i : Instr} {s : State} (due : dueFault i s = none) : (spAfter i s).val = tableSp i s := by
  cases i
  case call nnn =>
    exact Nat.mod_eq_of_lt (Nat.succ_lt_succ (free_of_not_due due))
  all_goals rfl

/-- Settles O21: a fault keeps `pc` and `sp`, and `completed` takes both from the table. -/
theorem programCounterAfterEveryInstruction : Obligations.ProgramCounterAfterEveryInstruction := by
  intro i s t running answer
  constructor
  · intro faulted
    obtain ⟨k, a, -, rfl⟩ := exec_faulted running answer faulted
    exact ⟨rfl, rfl⟩
  · intro stillRunning
    obtain ⟨due, rfl⟩ := exec_running answer stillRunning
    exact ⟨rfl, spAfter_val due⟩

/-! ### The general registers -/

theorem flagByte_eq_zero_or_one (b : Bool) : flagByte b = 0 ∨ flagByte b = 1 := by
  cases b
  · exact .inl rfl
  · exact .inr rfl

/-- A completed step writes no register but its destinations and the flag (R21, R22). -/
theorem reg_completed_of_not_written {i : Instr} {s : State} {r : Reg} (notDest : ¬destRegs i r)
    (notFlag : r = 15 → ¬writesFlag i) : (completed i s).reg r = s.reg r := by
  cases i
  case loadImm | addImm | move | or | and | xor | randomMask | getDelay => exact State.reg_setReg_ne s _ notDest
  case add | sub | shr | subn | shl =>
    exact State.reg_setFlagThenReg_ne s _ _ notDest fun isFlag => notFlag isFlag (by simp [writesFlag])
  case draw => exact State.reg_setReg_ne s _ fun isFlag => notFlag isFlag (by simp [writesFlag])
  case waitKey x =>
    cases event : s.keyEvent with
    | none => simp [State.reg, completed, regsAfter, event]
    | some key =>
      have moved := State.reg_setReg_ne s (BitVec.ofNat 8 key.val) notDest
      simpa [State.reg, completed, regsAfter, event] using moved
  case restoreRegs x =>
    have above : ¬r ≤ x := notDest
    simp [State.reg, completed, regsAfter, above]
  all_goals rfl

/-- The flag a completed step leaves (R22). -/
theorem flag_completed {i : Instr} {s : State} (flag : writesFlag i) (notDest : ¬destRegs i 15) :
    ∃ b, (completed i s).reg 15 = flagByte b := by
  obtain ⟨x, y, rfl⟩ | ⟨x, y, rfl⟩ | ⟨x, y, rfl⟩ | ⟨x, y, rfl⟩ | ⟨x, y, rfl⟩ | ⟨x, y, n, rfl⟩ := flag
  case inr.inr.inr.inr.inr => exact ⟨_, State.reg_setReg_self s flagReg _⟩
  all_goals exact ⟨_, State.reg_setFlagThenReg_flag s _ _ (Ne.symm notDest)⟩

/-- Settles O22: a fault writes no register, and a completed step those of `reg_completed_of_not_written` and
`flag_completed`. -/
theorem onlyDestinationsAndTheFlagChange : Obligations.OnlyDestinationsAndTheFlagChange := by
  intro i s t answer
  constructor
  · intro r notDest notFlag
    rcases exec_next_cases answer with ⟨k, a, -, rfl⟩ | ⟨-, rfl⟩
    · rfl
    · exact reg_completed_of_not_written notDest notFlag
  · intro _ running flag notDest
    obtain ⟨-, rfl⟩ := exec_running answer running
    obtain ⟨b, value⟩ := flag_completed (s := s) flag notDest
    exact value ▸ flagByte_eq_zero_or_one b

/-! ### The address register -/

/-- Settles O23: `addrRegAfter` keeps `I` for every other instruction. -/
theorem onlyThreeInstructionsWriteI : Obligations.OnlyThreeInstructionsWriteI := by
  intro i s t answer notLoad notAdd notDigit
  rcases exec_next_cases answer with ⟨k, a, -, rfl⟩ | ⟨-, rfl⟩
  · rfl
  · cases i
    case loadAddrReg nnn => exact absurd rfl (notLoad nnn)
    case addToAddr x => exact absurd rfl (notAdd x)
    case addrOfDigit x => exact absurd rfl (notDigit x)
    all_goals rfl

/-! ### The stack -/

theorem stackAfter_of_ne_call {i : Instr} (s : State) (notCall : ∀ nnn, i ≠ .call nnn) :
    stackAfter i s = s.stack := by
  cases i
  case call nnn => exact absurd rfl (notCall nnn)
  all_goals rfl

theorem spAfter_of_ne_call_ret {i : Instr} (s : State) (notCall : ∀ nnn, i ≠ .call nnn) (notRet : i ≠ .ret) :
    spAfter i s = s.sp := by
  cases i
  case call nnn => exact absurd rfl (notCall nnn)
  case ret => exact absurd rfl notRet
  all_goals rfl

/-- Every instruction but `CALL` and `RET` runs the same on any stack. -/
theorem dueFault_completed_setCallStack {i : Instr} (s : State) (sp : Fin 17) (stack : Vector Word 16)
    (notCall : ∀ nnn, i ≠ .call nnn) (notRet : i ≠ .ret) :
    dueFault i (s.setCallStack sp stack) = dueFault i s ∧
    completed i (s.setCallStack sp stack) = (completed i s).setCallStack sp stack := by
  cases i
  case call nnn => exact absurd rfl (notCall nnn)
  case ret => exact absurd rfl notRet
  all_goals exact ⟨rfl, rfl⟩

/-- A dead slot makes no difference to a completed step: `RET` reads a live one, and `CALL` writes the first dead
one. -/
theorem completed_sameButDeadSlots {i : Instr} {s t : State} (same : SameButDeadSlots s t)
    (due : dueFault i s = none) : SameButDeadSlots (completed i s) (completed i t) := by
  obtain ⟨agree, live⟩ := same
  generalize t.stack = stack at agree live
  subst agree
  cases i
  case ret =>
    have held := held_of_not_due due
    have popped : tablePc .ret { s with stack := stack } = tablePc .ret s :=
      live ⟨s.sp.val - 1, by omega⟩ (Nat.sub_lt held Nat.one_pos)
    refine ⟨by rw [completed, popped]; rfl, fun k below => live k ?_⟩
    exact Nat.lt_of_lt_of_le below (Nat.sub_le _ _)
  case call nnn =>
    refine ⟨rfl, fun k below => ?_⟩
    have below : k.val < (spAfter (.call nnn) s).val := below
    rw [spAfter_val due] at below
    have slot : s.sp.val = k.val ∨ k.val < s.sp.val := (Nat.lt_succ_iff_lt_or_eq.mp below).symm.imp_left Eq.symm
    simp only [completed, stackAfter, Vector.getElem_setIfInBounds]
    rcases slot with top | old
    · rw [if_pos top, if_pos top]
      rfl
    · rw [if_neg old.ne', if_neg old.ne', live k old]
  all_goals exact ⟨rfl, live⟩

/-- Every part of a step relates states that agree but for dead slots: the environment's move, the fetch, the fault and
the completed instruction. -/
theorem step_sameButDeadSlots {s t s' : State} (same : SameButDeadSlots s t) (answer : step s = .next s') :
    ∃ t', step t = .next t' ∧ SameButDeadSlots s' t' := by
  obtain ⟨agree, live⟩ := same
  generalize t.stack = stack at agree live
  subst agree
  rcases step_cases s with ⟨faulted, next⟩ | ⟨running, noFetch, next⟩ | ⟨running, fetch, next⟩
  · obtain rfl := Host.Outcome.next.inj (next.symm.trans answer)
    exact ⟨_, step_of_faulted faulted, rfl, live⟩
  · obtain rfl := Host.Outcome.next.inj (next.symm.trans answer)
    exact ⟨_, step_of_fetch_fault running noFetch, rfl, live⟩
  · rw [next] at answer
    rw [step_of_fetch (s := { s with stack := stack }) running fetch]
    have same : SameButDeadSlots s.envMove (State.envMove { s with stack := stack }) := ⟨rfl, live⟩
    exact exec_related SameButDeadSlots answer (dueFault_congr _ rfl rfl) (fun _ _ => ⟨rfl, live⟩)
      (completed_sameButDeadSlots same)

/-- Settles O24: only `stackAfter` and `spAfter` reach the stack, and only for `CALL` and `RET`; `exec_related` and
`step_sameButDeadSlots` say what the stack makes no difference to. -/
theorem stackIsReachedOnlyByCallAndRet : Obligations.StackIsReachedOnlyByCallAndRet := by
  refine ⟨fun i s t answer notCall => ?frame, fun i s t sp stack answer notCall notRet => ?anyStack,
    fun nnn s t stack answer => ?call, fun s t s' same answer => ?deadSlots⟩
  case frame =>
    rcases exec_next_cases answer with ⟨k, a, -, rfl⟩ | ⟨-, rfl⟩
    · exact ⟨fun _ => rfl, fun _ => rfl⟩
    · refine ⟨fun k => ?_, spAfter_of_ne_call_ret s notCall⟩
      simp only [completed, stackAfter_of_ne_call s notCall]
  case anyStack =>
    obtain ⟨due, done⟩ := dueFault_completed_setCallStack s sp stack notCall notRet
    obtain ⟨t', answer', rfl⟩ :=
      exec_related (fun t t' => t' = t.setCallStack sp stack) answer due (fun _ _ => rfl) fun _ => done
    exact answer'
  case call =>
    exact exec_related (fun t t' => t' = t.setCallStack t.sp t'.stack) answer rfl (fun _ _ => rfl) fun _ => rfl
  case deadSlots => exact step_sameButDeadSlots same answer

/-! ### Memory -/

/-- A completed step leaves every byte outside those it stores at `I` alone (R57). -/
theorem read_memAfter_outside (i : Instr) (s : State) (a : Nat)
    (outside : a < s.I.toNat ∨ s.I.toNat + storedBytes i ≤ a) : (memAfter i s).read a = s.mem.read a := by
  cases i
  case storeBcd x => exact Memory.read_writeBytes_outside _ _ _ _ outside
  case saveRegs x =>
    exact Memory.read_writeBytes_outside _ _ _ _ (by rw [State.length_firstRegs]; exact outside)
  all_goals rfl

/-- Every instruction but the four that reach memory runs the same on any memory. -/
theorem dueFault_completed_setMem {i : Instr} (s : State) (m : Memory) (notBcd : ∀ x, i ≠ .storeBcd x)
    (notSave : ∀ x, i ≠ .saveRegs x) (notRestore : ∀ x, i ≠ .restoreRegs x) (notDraw : ∀ x y n, i ≠ .draw x y n) :
    dueFault i (s.setMem m) = dueFault i s ∧ completed i (s.setMem m) = (completed i s).setMem m := by
  cases i
  case storeBcd x => exact absurd rfl (notBcd x)
  case saveRegs x => exact absurd rfl (notSave x)
  case restoreRegs x => exact absurd rfl (notRestore x)
  case draw x y n => exact absurd rfl (notDraw x y n)
  all_goals exact ⟨rfl, rfl⟩

/-- Settles O25: only `memAfter` writes memory, and `exec_related` says what memory makes no difference to. -/
theorem memoryIsReachedOnlyAtI : Obligations.MemoryIsReachedOnlyAtI := by
  refine ⟨fun i s t answer => ⟨?outside, fun running faulted => ?fault⟩,
    fun i s t m answer notBcd notSave notRestore notDraw => ?anyMemory⟩
  case outside =>
    rcases exec_next_cases answer with ⟨k, a, -, rfl⟩ | ⟨-, rfl⟩
    · exact fun _ _ => rfl
    · exact read_memAfter_outside i s
  case fault =>
    obtain ⟨k, a, -, rfl⟩ := exec_faulted running answer faulted
    exact fun _ => rfl
  case anyMemory =>
    obtain ⟨due, done⟩ := dueFault_completed_setMem s m notBcd notSave notRestore notDraw
    obtain ⟨t', answer', rfl⟩ :=
      exec_related (fun t t' => t' = t.setMem m) answer due (fun _ _ => rfl) fun _ => done
    exact answer'

/-! ### The devices -/

theorem displayAfter_of_ne {i : Instr} (s : State) (notCls : i ≠ .cls) (notDraw : ∀ x y n, i ≠ .draw x y n) :
    displayAfter i s = s.display := by
  cases i
  case cls => exact absurd rfl notCls
  case draw x y n => exact absurd rfl (notDraw x y n)
  all_goals rfl

theorem delayAfter_of_ne {i : Instr} (s : State) (notSet : ∀ x, i ≠ .setDelay x) : delayAfter i s = s.delay := by
  cases i
  case setDelay x => exact absurd rfl (notSet x)
  all_goals rfl

theorem soundAfter_of_ne {i : Instr} (s : State) (notSet : ∀ x, i ≠ .setSound x) : soundAfter i s = s.sound := by
  cases i
  case setSound x => exact absurd rfl (notSet x)
  all_goals rfl

theorem keyEventAfter_of_ne {i : Instr} (s : State) (notWait : ∀ x, i ≠ .waitKey x) :
    keyEventAfter i s = s.keyEvent := by
  cases i
  case waitKey x => exact absurd rfl (notWait x)
  all_goals rfl

theorem diagAfter_of_ne {i : Instr} (s : State) (known : ∀ hi lo, i ≠ .unknown hi lo) : diagAfter i s = s.diag := by
  cases i
  case unknown hi lo => exact absurd rfl (known hi lo)
  all_goals rfl

/-- Settles O26: a fault touches no device, and `completed` takes each device's state from its own function. -/
theorem devicesChangeOnlyOnRequest : Obligations.DevicesChangeOnlyOnRequest := by
  intro i s t answer
  rcases exec_next_cases answer with ⟨k, a, -, rfl⟩ | ⟨-, rfl⟩
  · exact ⟨fun _ _ _ _ => rfl, fun _ => rfl, fun _ => rfl, rfl, fun _ => rfl, rfl, rfl, rfl, rfl, fun _ => rfl⟩
  · refine ⟨fun notCls notDraw row col => ?_, delayAfter_of_ne s, soundAfter_of_ne s, rfl, keyEventAfter_of_ne s, rfl,
      rfl, rfl, rfl, diagAfter_of_ne s⟩
    simp only [completed, displayAfter_of_ne s notCls notDraw]

end Sys2Proof.Proofs
end

section
/-! PROOFS. The step, its faults, and the reset (R36, R110, R230 to R239, R244, R260, R261, R264). -/

namespace Sys2Proof.Proofs

open Sys2Proof.Machine

/-! ### One step -/

theorem nextInstr_of_fetch {s : State} (inside : s.pc.toNat + 2 ≤ 4096) :
    s.nextInstr = some (decode (s.mem.read s.pc.toNat) (s.mem.read (s.pc.toNat + 1))) := by
  rcases s.fetch_cases with ⟨beyond, -⟩ | ⟨-, bytes⟩
  · exact absurd beyond inside.not_gt
  · rw [State.nextInstr, bytes, Option.map_some]

/-- The step without the environment's move: the fetch fault, or the decoded instruction (R110). -/
theorem fetchAndRun_cases (s : State) :
    (s.pc.toNat + 2 > 4096 ∧ s.fetchAndRun = .next (s.takeFault .outOfBounds s.pc)) ∨
    (s.pc.toNat + 2 ≤ 4096 ∧ ∃ i, s.nextInstr = some i ∧ s.fetchAndRun = exec i s) := by
  rcases s.fetch_cases with ⟨beyond, refused⟩ | ⟨inside, bytes⟩
  · exact .inl ⟨beyond, by simp [State.fetchAndRun, refused, State.raise]⟩
  · exact .inr ⟨inside, _, nextInstr_of_fetch inside, by simp [State.fetchAndRun, bytes]⟩

/-- A fault the table of R230 names is of a real kind, and one of the stack has no address. -/
theorem dueFault_record {i : Instr} {s : State} {k : FaultKind} {a : Word} (due : dueFault i s = some (k, a)) :
    k ≠ .none ∧ (k ≠ .outOfBounds → a = 0) := by
  have real : (k = .outOfBounds ∨ (k = .stackOverflow ∧ a = 0)) ∨ (k = .stackUnderflow ∧ a = 0) := by
    cases i
    case ret | call | draw | storeBcd | saveRegs | restoreRegs =>
      simp only [dueFault, Option.ite_none_right_eq_some, Option.some.injEq, Prod.mk.injEq] at due
      obtain ⟨-, rfl, rfl⟩ := due
      simp
    all_goals nomatch due
  obtain (rfl | ⟨rfl, rfl⟩) | ⟨rfl, rfl⟩ := real
  · exact ⟨nofun, fun other => absurd rfl other⟩
  · exact ⟨nofun, fun _ => rfl⟩
  · exact ⟨nofun, fun _ => rfl⟩

/-- A step of a RUNNING core that ends FAULTED has taken a fault of a real kind and done nothing else. -/
theorem fetchAndRun_faulted {s t : State} (running : s.status = .running) (answer : s.fetchAndRun = .next t)
    (faulted : t.status = .faulted) : ∃ k a, k ≠ .none ∧ t = s.takeFault k a := by
  rcases fetchAndRun_cases s with ⟨-, fault⟩ | ⟨-, i, -, run⟩
  · exact ⟨.outOfBounds, s.pc, nofun, Host.Outcome.next.inj (answer.symm.trans fault)⟩
  · obtain ⟨k, a, due, rfl⟩ := exec_faulted running (run.symm.trans answer) faulted
    exact ⟨k, a, (dueFault_record due).1, rfl⟩

/-- Settles O11: the three cases of `step_cases`. -/
theorem stepRunsTheDecodedInstruction : Obligations.StepRunsTheDecodedInstruction := fun s =>
  ⟨step_of_fetch, fun running beyond => ⟨_, step_of_fetch_fault running beyond, faultTaken_takeFault s.envMove _ _⟩,
    step_of_faulted⟩

/-- Settles O13: the fault that ended the step is the whole step (`fetchAndRun_faulted`). -/
theorem faultsCommitNothing : Obligations.FaultsCommitNothing := by
  intro s t running answer faulted
  obtain ⟨k, a, -, rfl⟩ := fetchAndRun_faulted running answer faulted
  exact faultTaken_takeFault s k a

/-- Settles O14: `fetchAndRun_cases` for the fetch, `exec_cases` for the instruction. -/
theorem faultConditionsAreExact : Obligations.FaultConditionsAreExact := by
  refine ⟨fun s _ => ?_, rfl, rfl, rfl, rfl⟩
  rcases fetchAndRun_cases s with ⟨beyond, fault⟩ | ⟨inside, i, next, run⟩
  · exact ⟨fun _ => ⟨_, fault, faultTaken_takeFault s _ _⟩, fun inside => absurd beyond inside.not_gt⟩
  · refine ⟨fun beyond => absurd beyond inside.not_gt, fun _ => ⟨i, next, ?_⟩⟩
    rw [run]
    exact ⟨fun k a due => ⟨_, exec_of_due due, faultTaken_takeFault s k a⟩, fun notDue =>
      ⟨_, exec_of_not_due notDue, rfl, rfl, rfl, rfl⟩⟩

/-- Settles O15: by induction on the number of steps. -/
theorem faultedUntilReset : Obligations.FaultedUntilReset := by
  intro s faulted
  refine ⟨fun n => ?_, rfl⟩
  induction n with
  | zero => exact run_zero s
  | succ n ih => rw [run_succ n (step_of_faulted faulted), ih]

/-- Settles O16: each case of `step_cases` answers a state, the last one by `exec_cases`. -/
theorem everyStepAnswersAState : Obligations.EveryStepAnswersAState := by
  intro s
  rcases step_cases s with ⟨-, next⟩ | ⟨-, -, next⟩ | ⟨-, -, next⟩
  · exact ⟨_, next⟩
  · exact ⟨_, next⟩
  · rw [next]
    rcases exec_cases _ s.envMove with ⟨_, _, -, answer⟩ | ⟨-, answer⟩
    · exact ⟨_, answer⟩
    · exact ⟨_, answer⟩

/-- Settles O58: the port shows the state `fetchAndRun_faulted` gives. -/
theorem statusPortReportsTheFault : Obligations.StatusPortReportsTheFault := by
  refine ⟨fun s t running answer faulted => ?_, fun s => rfl⟩
  obtain ⟨k, a, real, rfl⟩ := fetchAndRun_faulted running answer faulted
  exact ⟨real, rfl⟩

/-! ### The environment -/

theorem toNat_decayed_le (v : Byte) (amount : Nat) : (decayed v amount).toNat ≤ v.toNat := by
  rw [decayed, BitVec.toNat_ofNat]
  exact (Nat.mod_le _ _).trans (Nat.sub_le _ _)

/-- Settles O12: the environment writes only devices and inputs, and the timers by `decayed`. -/
theorem environmentLeavesCoreAndMemoryAlone : Obligations.EnvironmentLeavesCoreAndMemoryAlone := fun s =>
  ⟨fun _ _ => rfl, rfl, rfl, ⟨rfl, fun _ => rfl⟩, ⟨rfl, rfl, rfl, rfl⟩, fun _ => rfl, fun _ _ => rfl, rfl,
    toNat_decayed_le s.delay _, toNat_decayed_le s.sound _⟩

/-! ### The reset and the boot -/

/-- Settles O17: `hostReset` writes the values of `State.reset`, and the fetch after it lies inside memory. -/
theorem hostResetWritesCoreOnly : Obligations.HostResetWritesCoreOnly := by
  intro s
  refine ⟨fun _ => rfl, rfl, rfl, fun _ => rfl, ⟨rfl, rfl, rfl, rfl⟩, rfl,
    ⟨fun _ => rfl, fun _ _ => rfl, ⟨rfl, rfl⟩, ⟨rfl, rfl, rfl, rfl, rfl, rfl⟩, rfl⟩, rfl, ?_⟩
  rcases s.hostReset.fetch_cases with ⟨beyond, -⟩ | ⟨-, bytes⟩
  · exact absurd beyond (by rw [State.hostReset_pc]; decide)
  · exact bytes

/-- Settles O18: the table of R36 is written out in `State.reset`. -/
theorem resetValues : Obligations.ResetValues :=
  ⟨fun r => Vector.getElem_replicate r.isLt, rfl, rfl, rfl, fun k => Vector.getElem_replicate k.isLt, rfl, rfl, rfl,
    rfl, Memory.read_nil⟩

/-- Settles O57: `State.boot_cases`, with what the placed program and glyphs leave in each byte. -/
theorem bootPlacesTheImage : Obligations.BootPlacesTheImage := by
  intro s glyphs program
  rcases s.boot_cases glyphs program with ⟨long, refused⟩ | ⟨fits, booted⟩
  · exact ⟨fun _ => refused, fun fits => absurd long fits.not_gt⟩
  · refine ⟨fun long => absurd long fits.not_gt, fun _ => ⟨_, booted, rfl, ?program, fun d k agree => ?glyphs,
      fun a outside noGlyph => ?rest⟩⟩
    case program => exact Memory.read_writeBytes_inside _ _ _
    case glyphs =>
      have low : (Config.digitAddr d).val + k.val < 0x200 := by omega
      exact (Memory.read_writeBytes_outside _ _ _ _ (.inl low)).trans (Memory.read_placeGlyphs s.mem glyphs d k agree)
    case rest =>
      exact (Memory.read_writeBytes_outside _ _ _ _ outside).trans
        (Memory.read_placeGlyphs_outside s.mem glyphs a noGlyph)

/-! ### The invariant -/

/-- The host's reset of a canonical memory meets the invariant whatever else the state held (R261). -/
theorem inv_hostReset {s : State} (wf : s.mem.wf = true) : s.hostReset.Inv where
  mem_wf := wf
  pc_le := by rw [State.hostReset_pc]; decide
  live_slots := fun _ live => absurd live (Nat.not_lt_zero _)
  running_record := fun _ => ⟨rfl, rfl, rfl⟩
  faulted_record := nofun
  stack_fault_addr := fun _ => rfl

/-- Settles O19: `State.reset` is its own host reset, and a boot ends with one. -/
theorem invariantHoldsAfterReset : Obligations.InvariantHoldsAfterReset := by
  refine ⟨inv_hostReset (s := State.reset) reset_mem_wf, fun s => inv_hostReset, ?_⟩
  intro s t glyphs program wf booted
  rcases s.boot_cases glyphs program with ⟨-, refused⟩ | ⟨fits, answer⟩
  · exact nomatch refused.symm.trans booted
  · obtain rfl := Option.some.inj (answer.symm.trans booted)
    have inside : 0x200 + program.length ≤ Config.memSize := Nat.add_le_add_left fits 0x200
    exact inv_hostReset (Memory.wf_writeBytes (Memory.wf_placeGlyphs wf glyphs) program inside)

/-- The environment's move keeps the invariant, which speaks of nothing it writes. -/
theorem inv_envMove {s : State} (inv : s.Inv) : s.envMove.Inv := { inv with }

/-- Taking a fault as the table of R230 describes it keeps the invariant. -/
theorem inv_takeFault {s : State} (inv : s.Inv) {k : FaultKind} {a : Word} (real : k ≠ .none)
    (addr : k ≠ .outOfBounds → a = 0) : (s.takeFault k a).Inv where
  mem_wf := inv.mem_wf
  pc_le := inv.pc_le
  live_slots := inv.live_slots
  running_record := nofun
  faulted_record := fun _ => ⟨real, rfl⟩
  stack_fault_addr := addr

/-- The bytes a completed store writes lie inside memory, so the canonical form stays. -/
theorem wf_memAfter {i : Instr} {s : State} (wf : s.mem.wf = true) (due : dueFault i s = none) :
    (memAfter i s).wf = true := by
  cases i
  case storeBcd x =>
    exact Memory.wf_writeBytes wf _ (digits_inside_of_not_due due)
  case saveRegs x =>
    exact Memory.wf_writeBytes wf _ (by rw [State.length_firstRegs]; exact registers_inside_of_not_due due)
  all_goals exact wf

/-- The table of R129 stays within 0x10FE: the largest target is `JUMP_OFFSET`'s, 0xFF + 0xFFF. -/
theorem tablePc_le {i : Instr} {s : State} (inv : s.Inv) (fetch : s.pc.toNat + 2 ≤ 4096) (due : dueFault i s = none) :
    (tablePc i s).toNat ≤ 0x10FE := by
  have two : (s.pc + 2).toNat ≤ 0x10FE := by bv_omega
  have four : (s.pc + 4).toNat ≤ 0x10FE := by bv_omega
  cases i
  case ret =>
    obtain ⟨-, top⟩ := inv.live_slots ⟨s.sp.val - 1, by omega⟩ (Nat.sub_lt (held_of_not_due due) Nat.one_pos)
    exact top.trans (by decide)
  case jump nnn | call nnn =>
    have := nnn.isLt
    rw [tablePc, BitVec.toNat_ofNat]
    omega
  case jumpOffset nnn =>
    have := nnn.isLt
    have := (s.reg 0).isLt
    rw [tablePc, BitVec.toNat_ofNat]
    omega
  case skipEqImm | skipNeqImm | skipEqReg | skipNeqReg | skipIfPressed | skipIfNotPressed =>
    rw [tablePc]
    split
    · exact four
    · exact two
  case waitKey =>
    rw [tablePc]
    split
    · exact inv.pc_le
    · exact two
  all_goals exact two

/-- A completed step pushes nothing but the address of the next instruction, which is in 2 to 4096. -/
theorem live_slots_completed {i : Instr} {s : State} (inv : s.Inv) (fetch : s.pc.toNat + 2 ≤ 4096)
    (due : dueFault i s = none) (k : Fin 16) (live : k.val < (spAfter i s).val) :
    2 ≤ ((stackAfter i s)[k.val]).toNat ∧ ((stackAfter i s)[k.val]).toNat ≤ 4096 := by
  rw [spAfter_val due] at live
  cases i
  case call nnn =>
    simp only [stackAfter, Vector.getElem_setIfInBounds]
    split
    · rw [State.npc_eq]
      constructor <;> bv_omega
    · next old =>
      exact inv.live_slots k (by simp only [tableSp] at live; omega)
  case ret => exact inv.live_slots k (Nat.lt_of_lt_of_le live (Nat.sub_le _ _))
  all_goals exact inv.live_slots k live

/-- A completed instruction keeps the invariant. -/
theorem inv_completed {i : Instr} {s : State} (inv : s.Inv) (fetch : s.pc.toNat + 2 ≤ 4096)
    (running : s.status = .running) (due : dueFault i s = none) : (completed i s).Inv where
  mem_wf := wf_memAfter inv.mem_wf due
  pc_le := tablePc_le inv fetch due
  live_slots := live_slots_completed inv fetch due
  running_record := inv.running_record
  faulted_record := fun faulted => nomatch running.symm.trans faulted
  stack_fault_addr := inv.stack_fault_addr

/-- Settles O20: each case of `step_cases` keeps the invariant, and in the last one a due fault as well as a completed
instruction (`inv_takeFault`, `inv_completed`). -/
theorem invariantIsKeptByEveryStep : Obligations.InvariantIsKeptByEveryStep := by
  intro s t inv answer
  rcases step_cases s with ⟨-, next⟩ | ⟨-, -, next⟩ | ⟨running, fetch, next⟩
  · obtain rfl := Host.Outcome.next.inj (next.symm.trans answer)
    exact inv
  · obtain rfl := Host.Outcome.next.inj (next.symm.trans answer)
    exact inv_takeFault (inv_envMove inv) nofun fun other => absurd rfl other
  · rcases exec_next_cases (next.symm.trans answer) with ⟨k, a, due, rfl⟩ | ⟨due, rfl⟩
    · obtain ⟨real, addr⟩ := dueFault_record due
      exact inv_takeFault (inv_envMove inv) real addr
    · exact inv_completed (inv_envMove inv) fetch running due

end Sys2Proof.Proofs
end

section
/-! PROOFS. The stores and loads through `I` (R54, R63, R164 to R166). -/

namespace Sys2Proof.Proofs

open Sys2Proof.Machine

/-- Only memory and `pc` differ after a store of the bytes `bs` at `base` (R57). -/
theorem onlyMemAndPc_writeBytes (s : State) (base : Nat) (bs : List Byte) :
    OnlyMemAndPc base bs.length s (s.setMem (s.mem.writeBytes base bs)).advance :=
  ⟨fun _ _ => rfl, rfl, ⟨rfl, fun _ => rfl⟩, ⟨rfl, rfl, rfl, rfl⟩, Memory.read_writeBytes_outside s.mem base bs,
    fun _ _ => rfl, ⟨rfl, rfl⟩, ⟨rfl, rfl, rfl, rfl, rfl, rfl⟩, rfl⟩

/-- Settles O2: `State.memWrite_cases`, with what a stored sequence leaves in each byte. -/
theorem memWriteStoresWholeRangeOrNothing : Obligations.MemWriteStoresWholeRangeOrNothing := by
  intro s addr v
  rcases s.memWrite_cases addr v with ⟨beyond, refused⟩ | ⟨inside, stored⟩
  · exact ⟨fun _ => refused, fun inside => absurd beyond inside.not_gt⟩
  · exact ⟨fun beyond => absurd beyond inside.not_gt, fun _ =>
      ⟨_, stored, Memory.read_writeBytes_inside s.mem addr.toNat v, Memory.read_writeBytes_outside s.mem addr.toNat v,
        rfl⟩⟩

/-! ### `SAVE_REGS` and `RESTORE_REGS` -/

/-- The byte of register `k` in the range `SAVE_REGS` stores (R165). -/
theorem read_writeBytes_firstRegs (s : State) {x k : Reg} (saved : k ≤ x) :
    (s.mem.writeBytes s.I.toNat (s.firstRegs (regCount x))).read (s.I.toNat + k.val) = s.reg k := by
  have inRange : k.val < (s.firstRegs (regCount x)).length := by
    rw [State.length_firstRegs]
    exact Nat.lt_succ_of_le saved
  rw [Memory.read_writeBytes_inside s.mem s.I.toNat _ k.val inRange, State.getElem_firstRegs]

/-- `SAVE_REGS` whose range lies inside memory. -/
theorem exec_saveRegs_of_inside {x : Reg} {s : State} (inside : s.I.toNat + (x.val + 1) ≤ 4096) :
    exec (.saveRegs x) s = .next (s.setMem (s.mem.writeBytes s.I.toNat (s.firstRegs (regCount x)))).advance :=
  exec_of_not_due (i := .saveRegs x) (if_neg inside.not_gt)

/-- Settles O45: `exec_saveRegs_cases` splits at the end of memory. -/
theorem saveRegsStoresTheRange : Obligations.SaveRegsStoresTheRange := by
  intro x s
  rcases exec_saveRegs_cases x s with ⟨beyond, fault⟩ | ⟨inside, answer⟩
  · exact ⟨fun inside => absurd beyond inside.not_gt, fun _ => ⟨_, fault, faultTaken_takeFault s _ _⟩⟩
  · have frame := onlyMemAndPc_writeBytes s s.I.toNat (s.firstRegs (regCount x))
    rw [State.length_firstRegs] at frame
    exact ⟨fun _ => ⟨_, answer, fun k => read_writeBytes_firstRegs s, State.npc_eq s, frame⟩,
      fun beyond => absurd beyond inside.not_gt⟩

/-- Nothing but general registers and `pc` differs after a write of the registers. -/
theorem same_of_regs_replaced {s t : State} {x : Vector Byte 16} (replaced : t = ({ s with x := x } : State).advance) :
    SameAddrReg s t ∧ SameStack s t ∧ SameStatus s t ∧ SameOutside s t := by
  subst replaced
  exact ⟨rfl, ⟨rfl, fun _ => rfl⟩, ⟨rfl, rfl, rfl, rfl⟩, fun _ => rfl, fun _ _ => rfl, ⟨rfl, rfl⟩,
    ⟨rfl, rfl, rfl, rfl, rfl, rfl⟩, rfl⟩

/-- `RESTORE_REGS` whose range lies inside memory writes general registers and `pc` only. -/
theorem exec_restoreRegs_of_inside {x : Reg} {s : State} (inside : s.I.toNat + (x.val + 1) ≤ 4096) :
    exec (.restoreRegs x) s = .next ({ s with x := regsAfter (.restoreRegs x) s } : State).advance :=
  exec_of_not_due (i := .restoreRegs x) (if_neg inside.not_gt)

/-- The registers after a `RESTORE_REGS` that completes (R166). -/
theorem reg_of_restored (x k : Reg) (s : State) :
    ({ s with x := regsAfter (.restoreRegs x) s } : State).advance.reg k =
      if k ≤ x then s.mem.read (s.I.toNat + k.val) else s.reg k := by
  simp [State.reg, regsAfter]

/-- Settles O46: `exec_restoreRegs_cases` splits at the end of memory, and `reg_of_restored` has each register. -/
theorem restoreRegsLoadsTheRange : Obligations.RestoreRegsLoadsTheRange := by
  intro x s
  rcases exec_restoreRegs_cases x s with ⟨beyond, fault⟩ | ⟨inside, -⟩
  · exact ⟨fun inside => absurd beyond inside.not_gt, fun _ => ⟨_, fault, faultTaken_takeFault s _ _⟩⟩
  · exact ⟨fun _ => ⟨_, exec_restoreRegs_of_inside inside, fun k => reg_of_restored x k s, State.npc_eq s,
      same_of_regs_replaced rfl⟩, fun beyond => absurd beyond inside.not_gt⟩

/-- Settles O47: what `RESTORE_REGS` reads at `I` are the bytes `SAVE_REGS` stored there
(`read_writeBytes_firstRegs`). -/
theorem saveThenRestoreGivesRegistersBack : Obligations.SaveThenRestoreGivesRegistersBack := by
  intro x s t u inside saved mem addr
  obtain rfl := Host.Outcome.next.inj ((exec_saveRegs_of_inside inside).symm.trans saved)
  have inside' : u.I.toNat + (x.val + 1) ≤ 4096 := addr ▸ inside
  refine ⟨_, exec_restoreRegs_of_inside inside', fun k => ?_⟩
  rw [reg_of_restored, mem, addr]
  exact ite_congr rfl (read_writeBytes_firstRegs s) fun _ => rfl

/-! ### `STORE_BCD` -/

/-- `STORE_BCD` whose range lies inside memory. -/
theorem exec_storeBcd_of_inside {x : Reg} {s : State} (inside : s.I.toNat + 3 ≤ 4096) :
    exec (.storeBcd x) s = .next (s.setMem (s.mem.writeBytes s.I.toNat (bcd (s.reg x)))).advance :=
  exec_of_not_due (i := .storeBcd x) (if_neg inside.not_gt)

/-- Settles O44: `exec_storeBcd_cases` splits at the end of memory, and the three bytes stored are `bcd`'s. -/
theorem storeBcdStoresThreeDigits : Obligations.StoreBcdStoresThreeDigits := by
  intro x s
  rcases exec_storeBcd_cases x s with ⟨beyond, fault⟩ | ⟨inside, answer⟩
  · exact ⟨fun inside => absurd beyond inside.not_gt, fun _ => ⟨_, fault, faultTaken_takeFault s _ _⟩⟩
  · have value := (s.reg x).isLt
    have digit (j : Nat) (h : j < 3) := Memory.read_writeBytes_inside s.mem s.I.toNat (bcd (s.reg x)) j h
    refine ⟨fun _ => ⟨_, answer, ?hundreds, ?tens, ?ones, State.npc_eq s, onlyMemAndPc_writeBytes s _ (bcd (s.reg x))⟩,
      fun beyond => absurd beyond inside.not_gt⟩
    case hundreds =>
      exact (congrArg BitVec.toNat (digit 0 (by decide))).trans (by simp [bcd]; omega)
    case tens => exact (congrArg BitVec.toNat (digit 1 (by decide))).trans (by simp [bcd]; omega)
    case ones => exact (congrArg BitVec.toNat (digit 2 (by decide))).trans (by simp [bcd]; omega)

/-! ### The fetch after a store -/

/-- The fetch of two bytes that the store before it has written (R63). -/
theorem fetch_of_stored {s : State} {base k : Nat} {bs : List Byte} (pc : s.npc.toNat = base + k)
    (inRange : k + 1 < bs.length) (inside : base + bs.length ≤ 4096) :
    (s.setMem (s.mem.writeBytes base bs)).advance.fetch = some (bs[k], bs[k + 1]) := by
  rcases State.fetch_cases (s.setMem (s.mem.writeBytes base bs)).advance with ⟨beyond, -⟩ | ⟨-, bytes⟩
  · simp only [State.advance_pc, State.setMem_npc] at beyond
    omega
  · simp only [State.advance_pc, State.setMem_npc, State.advance_mem, State.setMem_mem, pc, Nat.add_assoc] at bytes
    rw [bytes, Memory.read_writeBytes_inside s.mem base bs k (by omega),
      Memory.read_writeBytes_inside s.mem base bs (k + 1) inRange]

/-- Settles O28: both stores leave `pc` at `npc`, so `fetch_of_stored` has the bytes they stored. -/
theorem storeIsSeenByTheNextFetch : Obligations.StoreIsSeenByTheNextFetch := by
  intro x s t k pc
  refine ⟨fun covered inside answer => ?saved, fun covered inside answer => ?digits⟩
  case saved =>
    obtain rfl := Host.Outcome.next.inj ((exec_saveRegs_of_inside inside).symm.trans answer)
    have stored : (s.firstRegs (regCount x)).length = x.val + 1 := State.length_firstRegs s x
    rw [fetch_of_stored (s := s) pc (by omega) (stored ▸ inside), State.getElem_firstRegs, State.getElem_firstRegs]
  case digits =>
    have inRange : k + 1 < (bcd (s.reg x)).length := Nat.lt_succ_of_le covered
    obtain rfl := Host.Outcome.next.inj ((exec_storeBcd_of_inside inside).symm.trans answer)
    rw [fetch_of_stored (s := s) pc inRange inside, List.getD_eq_getElem _ _ inRange, List.getD_eq_getElem]

end Sys2Proof.Proofs
end

section
/-! PROOFS. Drawing (R173, R205). -/

namespace Sys2Proof.Proofs

open Sys2Proof.Machine

/-- The sprite a statement speaks of is the rows `DRAW` has read. -/
theorem spriteCovers_iff_rowsCover (s : State) (px py : Byte) (n : Nat) (row : Fin 32) (col : Fin 64) :
    SpriteCovers s px py n row col ↔ RowsCover px.toNat py.toNat (s.mem.readBytes s.I.toNat n) row col := by
  constructor
  · rintro ⟨r, c, inRows, inColumns, bit, atRow, atCol⟩
    exact ⟨r, by simpa using inRows, c, Nat.zero_le c, by omega, by simpa using bit, atRow, atCol⟩
  · rintro ⟨r, inRows, c, -, inColumns, bit, atRow, atCol⟩
    exact ⟨r, c, by simpa using inRows, by omega, by simpa using bit, atRow, atCol⟩

/-- The sprite is a matter of memory and `I`. -/
theorem spriteCovers_congr {s t : State} (mem : SameMem s t) (addr : SameAddrReg s t) (px py : Byte) (n : Nat)
    (row : Fin 32) (col : Fin 64) : SpriteCovers t px py n row col ↔ SpriteCovers s px py n row col := by
  have bytes (a : Nat) : t.mem.read a = s.mem.read a := mem a
  have start : t.I = s.I := addr
  simp only [SpriteCovers, bytes, start]

/-- Only the display, the flag and `pc` differ after a draw. -/
theorem same_of_drawn {s t : State} {rows : List Byte} {px py flag : Byte}
    (drawn : t = ((s.capDraw rows px py).1.setReg flagReg flag).advance) :
    SameRegsBut [15] s t ∧ SameAddrReg s t ∧ SameStack s t ∧ SameStatus s t ∧ SameMem s t ∧ SameTimers s t ∧
    SameInputs s t ∧ SameDiag s t := by
  subst drawn
  exact ⟨fun _ other => State.reg_setReg_ne _ flag (List.mem_singleton.not.mp other), rfl, ⟨rfl, fun _ => rfl⟩,
    ⟨rfl, rfl, rfl, rfl⟩, fun _ => rfl, ⟨rfl, rfl⟩, ⟨rfl, rfl, rfl, rfl, rfl, rfl⟩, rfl⟩

/-- Settles O50: `exec_draw_cases` splits at the end of memory, and `blitRows_spec` says what the rows do to the display
and the collision; a sprite has at most 15 rows. -/
theorem drawXorsTheSpriteAndReportsCollision : Obligations.DrawXorsTheSpriteAndReportsCollision := by
  intro x y n s
  rcases exec_draw_cases x y n s with ⟨beyond, fault⟩ | ⟨inside, answer⟩
  · exact ⟨fun inside => absurd beyond inside.not_gt, fun _ => ⟨_, fault, faultTaken_takeFault s _ _⟩⟩
  · have short : (s.mem.readBytes s.I.toNat n.toNat).length ≤ 32 := by
      have := n.isLt
      rw [Memory.length_readBytes]
      omega
    obtain ⟨covered, uncovered, collision⟩ :=
      blitRows_spec (s.reg x).toNat (s.reg y).toNat _ short (s.display, false)
    simp only [← spriteCovers_iff_rowsCover, Bool.false_eq_true, false_or] at covered uncovered collision
    refine ⟨fun _ => ⟨_, answer, covered, uncovered, fun hit => ?hit, fun noHit => ?noHit, State.npc_eq s,
      same_of_drawn rfl⟩, fun beyond => absurd beyond inside.not_gt⟩
    case hit => exact (State.reg_setReg_self _ flagReg _).trans (congrArg flagByte (collision.mpr hit))
    case noHit =>
      have none := Bool.eq_false_iff.mpr (collision.not.mpr noHit)
      exact (State.reg_setReg_self _ flagReg _).trans (congrArg flagByte none)

/-- Settles O51: the second draw is `drawXorsTheSpriteAndReportsCollision` again, with the same sprite, so it inverts
the pixels the first has inverted. -/
theorem drawingTwiceErases : Obligations.DrawingTwiceErases := by
  intro x y n s t inside first sameX sameY
  obtain ⟨t', answer, covered, uncovered, -, -, -, -, addr, -, -, mem, -⟩ :=
    (drawXorsTheSpriteAndReportsCollision x y n s).1 inside
  obtain rfl := Host.Outcome.next.inj (answer.symm.trans first)
  have start : t'.I = s.I := addr
  obtain ⟨u, again, covered', uncovered', hit, -⟩ :=
    (drawXorsTheSpriteAndReportsCollision x y n t').1 (start.symm ▸ inside)
  simp only [sameX, sameY, spriteCovers_congr mem addr] at covered' uncovered' hit
  refine ⟨u, again, fun row col => ?pixel, fun ⟨row, col, covers, clear⟩ => hit ⟨row, col, covers, ?set⟩⟩
  case pixel =>
    by_cases covers : SpriteCovers s (s.reg x) (s.reg y) n.toNat row col
    · rw [covered' row col covers, covered row col covers, Bool.not_not]
    · rw [uncovered' row col covers, uncovered row col covers]
  case set => rw [covered row col covers, clear, Bool.not_false]

end Sys2Proof.Proofs
end

section
/-! PROOFS. Runs: the parked core, the delay timer, and what no program can observe of the sound timer (R214, R266). -/

namespace Sys2Proof.Proofs

open Sys2Proof.Machine

/-! ### The parked core -/

/-- Only what the environment writes may differ: the devices' timers and inputs. -/
def SameButEnvironment (s t : State) : Prop :=
  t = { s with
    delay := t.delay, sound := t.sound, keys := t.keys, keyEvent := t.keyEvent, rand := t.rand, highKey := t.highKey,
    highDigit := t.highDigit, tick := t.tick }

theorem sameButEnvironment_trans {s t u : State} (first : SameButEnvironment s t) (second : SameButEnvironment t u) :
    SameButEnvironment s u := by
  rw [SameButEnvironment] at first second ⊢
  rw [first] at second
  exact second

/-- The environment writes nothing that parks a core. -/
theorem parked_of_sameButEnvironment {s t : State} {a : Addr12} (parked : s.Parked a) (same : SameButEnvironment s t) :
    t.Parked a := by
  rw [same]
  exact parked

/-- A step of a parked core is the environment's move alone: the jump leaves `pc` where it is (R266). -/
theorem step_of_parked {s : State} {a : Addr12} (parked : s.Parked a) : step s = .next s.envMove := by
  obtain ⟨pc, running, next⟩ := parked
  have inside : s.pc.toNat + 2 ≤ 4096 := by
    by_contra beyond
    rcases s.fetch_cases with ⟨-, refused⟩ | ⟨inside, -⟩
    · simp [State.nextInstr, refused] at next
    · exact beyond inside
  have jump := Option.some.inj ((nextInstr_of_fetch inside).symm.trans next)
  rw [step_of_fetch running inside, jump, exec_jump, ← pc]
  rfl

/-- A run of a parked core is the environment's moves alone: by induction on the number of steps. -/
theorem run_of_parked {s : State} {a : Addr12} (parked : s.Parked a) (n : Nat) :
    ∃ t, core.run n s = .next t ∧ SameButEnvironment s t := by
  induction n generalizing s with
  | zero => exact ⟨s, run_zero s, rfl⟩
  | succ n ih =>
    have moved : SameButEnvironment s s.envMove := rfl
    obtain ⟨t, run, same⟩ := ih (parked_of_sameButEnvironment parked moved)
    exact ⟨t, (run_succ n (step_of_parked parked)).trans run, sameButEnvironment_trans moved same⟩

/-- Settles O27: after any run only what the environment writes may differ (`run_of_parked`). -/
theorem parkedForEver : Obligations.ParkedForEver := by
  intro s a parked n
  obtain ⟨t, run, same⟩ := run_of_parked parked n
  refine ⟨t, run, parked_of_sameButEnvironment parked same, ?_⟩
  rw [same]
  exact ⟨fun _ _ => rfl, rfl, ⟨rfl, fun _ => rfl⟩, ⟨rfl, rfl, rfl, rfl⟩, fun _ => rfl, fun _ _ => rfl, rfl⟩

/-! ### The delay timer -/

/-- A step that decodes no `SET_DELAY` does not raise the delay timer (R214). -/
theorem delay_le_of_step {s t : State} (notSet : ∀ i, s.nextInstr = some i → ¬∃ x, i = .setDelay x)
    (answer : step s = .next t) : t.delay.toNat ≤ s.delay.toNat := by
  have decay : s.envMove.delay.toNat ≤ s.delay.toNat := toNat_decayed_le s.delay _
  rcases step_cases s with ⟨-, next⟩ | ⟨-, -, next⟩ | ⟨-, inside, next⟩
  · obtain rfl := Host.Outcome.next.inj (next.symm.trans answer)
    exact Nat.le_refl _
  · obtain rfl := Host.Outcome.next.inj (next.symm.trans answer)
    exact decay
  · rcases exec_next_cases (next.symm.trans answer) with ⟨k, a, -, rfl⟩ | ⟨-, rfl⟩
    · exact decay
    · have other := fun x isSet => notSet _ (nextInstr_of_fetch inside) ⟨x, isSet⟩
      exact (congrArg BitVec.toNat (delayAfter_of_ne s.envMove other)).trans_le decay

/-- Settles O55: by induction on the number of steps, each by `delay_le_of_step`. -/
theorem delayTimerNeverRisesUnlessSet : Obligations.DelayTimerNeverRisesUnlessSet := by
  intro n
  induction n with
  | zero =>
    intro s t _ run
    obtain rfl := Host.Outcome.next.inj ((run_zero s).symm.trans run)
    exact Nat.le_refl _
  | succ n ih =>
    intro s t ⟨notSet, later⟩ run
    obtain ⟨u, answer, rest⟩ := run_succ_cases run
    exact (ih u t (later u answer) rest).trans (delay_le_of_step notSet answer)

/-! ### The sound timer -/

/-- Two states that differ in the sound timer alone. -/
def SameButSound (s t : State) : Prop := t = s.capSetSound t.sound

/-- A completed step reads no sound timer, and writes it only from a register. -/
theorem completed_sameButSound (i : Instr) (s : State) (v : Byte) :
    SameButSound (completed i s) (completed i (s.capSetSound v)) := by
  cases i <;> rfl

/-- Settles O56: the environment's move, the fetch, a fault and a completed instruction all relate states that differ in
the sound timer alone. -/
theorem soundTimerIsUnobservable : Obligations.SoundTimerIsUnobservable := by
  intro s s' v answer
  change ∃ w, step (s.capSetSound v) = .next (s'.capSetSound w)
  rcases step_cases s with ⟨faulted, next⟩ | ⟨running, beyond, next⟩ | ⟨running, inside, next⟩
  · obtain rfl := Host.Outcome.next.inj (next.symm.trans answer)
    exact ⟨v, step_of_faulted faulted⟩
  · obtain rfl := Host.Outcome.next.inj (next.symm.trans answer)
    exact ⟨_, step_of_fetch_fault (s := s.capSetSound v) running beyond⟩
  · rw [step_of_fetch (s := s.capSetSound v) running inside]
    obtain ⟨t, answer', same⟩ := exec_related (s' := (s.capSetSound v).envMove) SameButSound (next.symm.trans answer)
      (dueFault_congr _ rfl rfl) (fun _ _ => rfl) fun _ => completed_sameButSound _ s.envMove _
    exact ⟨t.sound, answer'.trans (congrArg _ same)⟩

end Sys2Proof.Proofs
end

section
/-! PROOFS. Single instructions: `SYS`, `UNKNOWN`, control transfer, the ALU, the address register, the keypad (R112,
R113, R121, R124, R143 to R152, R162, R174, R175, R177). -/

namespace Sys2Proof.Proofs

open Sys2Proof.Machine

/-- Settles O29: both only advance `pc`, and `UNKNOWN` emits its event first. -/
theorem sysAndUnknownAreNoOps : Obligations.SysAndUnknownAreNoOps := fun s =>
  ⟨fun nnn => ⟨_, exec_sys nnn s, State.npc_eq s, onlyRegsAndPc_setPc s s.npc⟩,
    fun hi lo => ⟨_, exec_unknown hi lo s, State.npc_eq s, rfl, fun _ _ => rfl, rfl, ⟨rfl, fun _ => rfl⟩,
      ⟨rfl, rfl, rfl, rfl⟩, fun _ => rfl, fun _ _ => rfl, ⟨rfl, rfl⟩, rfl, rfl, rfl, rfl, rfl, rfl⟩⟩

/-- Settles O31: the sum has its exact value because it fits 16 bits (`State.toNat_indexedTarget`). -/
theorem jumpOffsetGoesToTheExactSum : Obligations.JumpOffsetGoesToTheExactSum := fun nnn s =>
  ⟨_, exec_jumpOffset nnn s, s.toNat_indexedTarget nnn, onlyRegsAndPc_setPc s _⟩

/-- Settles O33: `CALL` leaves `npc` in the slot at the old `sp`, where `RET` finds it. -/
theorem callThenRetRoundTrips : Obligations.CallThenRetRoundTrips := by
  intro nnn s t u free call sp stack
  rcases exec_call_cases nnn s with ⟨full, -⟩ | ⟨_, pushed⟩
  · exact absurd full free.ne
  · obtain rfl := Host.Outcome.next.inj (pushed.symm.trans call)
    have height : u.sp.val = s.sp.val + 1 := congrArg Fin.val sp
    rcases exec_ret_cases u with ⟨empty, -⟩ | ⟨held, popped⟩
    · omega
    · refine ⟨_, popped, ?_, Fin.ext (by simp [height])⟩
      simp [stack, height, State.npc_eq]

/-! ### The ALU -/

/-- Settles O37: each is `setReg_writes_one_register`, the logical forms read bit by bit. -/
theorem flaglessOperationsWriteOneRegister : Obligations.FlaglessOperationsWriteOneRegister := by
  intro x y nn s
  refine ⟨?addImm, ?or, ?and, ?xor⟩
  case addImm =>
    obtain ⟨t, answer, result, pc, frame⟩ := setReg_writes_one_register (exec_addImm x nn s)
    exact ⟨t, answer, result ▸ BitVec.toNat_add _ _, pc, frame⟩
  case or =>
    obtain ⟨t, answer, result, pc, frame⟩ := setReg_writes_one_register (exec_or x y s)
    exact ⟨t, answer, pc, frame, fun _ => result ▸ BitVec.getLsbD_or⟩
  case and =>
    obtain ⟨t, answer, result, pc, frame⟩ := setReg_writes_one_register (exec_and x y s)
    exact ⟨t, answer, pc, frame, fun _ => result ▸ BitVec.getLsbD_and⟩
  case xor =>
    obtain ⟨t, answer, result, pc, frame⟩ := setReg_writes_one_register (exec_xor x y s)
    exact ⟨t, answer, pc, frame, fun _ => result ▸ BitVec.getLsbD_xor⟩

/-- A difference on 8 bits as the rules write it (R140). -/
theorem toNat_sub_byte (a b : Byte) : (a - b).toNat = (a.toNat + 256 - b.toNat) % 256 := by
  have := b.isLt
  rw [BitVec.toNat_sub]
  omega

/-- A subtraction's result and flag from what `setFlagThenReg` writes (R149, R151). -/
theorem difference_and_comparison {i : Instr} {s : State} {x : Reg} {a b : Byte}
    (answer : exec i s = .next (s.setFlagThenReg x (greater a b) (a - b)).advance) :
    ∃ t, exec i s = .next t ∧ (t.reg x).toNat = (a.toNat + 256 - b.toNat) % 256 ∧
      (x ≠ 15 → (t.reg 15).toNat = if a.toNat > b.toNat then 1 else 0) ∧ t.pc = s.pc + 2 ∧
      OnlyRegsAndPc [x, 15] s t := by
  obtain ⟨t, answer, result, flag, pc, frame⟩ := setFlagThenReg_writes_result_and_flag answer
  exact ⟨t, answer, by rw [result, toNat_sub_byte],
    fun notFlag => by rw [flag notFlag, greater, toNat_flagByte_decide], pc, frame⟩

/-- Settles O39: both are `difference_and_comparison`, `SUBN` with its operands exchanged. -/
theorem subtractionsWriteDifferenceAndComparison : Obligations.SubtractionsWriteDifferenceAndComparison := fun x y s =>
  ⟨difference_and_comparison (exec_sub x y s), difference_and_comparison (exec_subn x y s)⟩

theorem toNat_flagByte (b : Bool) : (flagByte b).toNat = b.toNat := by
  cases b <;> rfl

theorem toNat_lowBit (a : Byte) : (lowBit a).toNat = a.toNat % 2 := by
  rw [lowBit, BitVec.getLsbD, Nat.toNat_testBit]
  simp

theorem toNat_topBit (a : Byte) : (topBit a).toNat = a.toNat / 128 := by
  have := a.isLt
  rw [topBit, BitVec.getLsbD, Nat.toNat_testBit]
  omega

/-- Settles O40: the shifts as division and doubling, with the bit shifted out as the flag's number. -/
theorem shiftsWriteResultAndBitShiftedOut : Obligations.ShiftsWriteResultAndBitShiftedOut := by
  intro x y s
  obtain ⟨t, right, half, low, pcR, frameR⟩ := setFlagThenReg_writes_result_and_flag (exec_shr x y s)
  obtain ⟨u, left, double, top, pcL, frameL⟩ := setFlagThenReg_writes_result_and_flag (exec_shl x y s)
  refine ⟨⟨t, right, ?half, fun notFlag => ?low, pcR, frameR⟩, ⟨u, left, ?double, fun notFlag => ?top, pcL, frameL⟩⟩
  case half => rw [half, BitVec.toNat_ushiftRight, Nat.shiftRight_eq_div_pow]
  case low => rw [low notFlag, toNat_flagByte, toNat_lowBit]
  case double => rw [double, BitVec.toNat_shiftLeft, Nat.shiftLeft_eq, Nat.mul_comm]
  case top => rw [top notFlag, toNat_flagByte, toNat_topBit]

/-! ### The address register -/

/-- Settles O42: `ADD_TO_ADDR` only sets `I`, to the sum on 16 bits. -/
theorem addressRegisterIsAddedTo : Obligations.AddressRegisterIsAddedTo := by
  intro x s
  refine ⟨_, exec_addToAddr x s, ?sum, State.npc_eq s, onlyAddrRegAndPc_setI s _⟩
  case sum => rw [State.advance_I, State.setI_I, BitVec.toNat_add, toNat_zextByte]

/-! ### The keypad -/

/-- A skip goes to one of two places. -/
theorem skip_pc_two_or_four (s : State) (taken : Bool) :
    (s.setPc (if taken then s.npc + 2 else s.npc)).pc = s.pc + 2 ∨
    (s.setPc (if taken then s.npc + 2 else s.npc)).pc = s.pc + 4 := by
  cases taken
  · exact .inl (State.npc_eq s)
  · exact .inr (State.npc_add_two s)

/-- Settles O52: both skips test `get_key`, which for an index 0 to 15 is the state of that key. -/
theorem keySkipsFollowTheKey : Obligations.KeySkipsFollowTheKey := by
  intro x s
  refine ⟨_, _, exec_skipIfPressed x s, exec_skipIfNotPressed x s, onlyRegsAndPc_setPc s _, onlyRegsAndPc_setPc s _,
    skip_pc_two_or_four s _, skip_pc_two_or_four s _, fun index => ?key⟩
  case key =>
    have key : s.capGetKey (s.reg x) = s.keys[(s.reg x).toNat] := dif_pos index
    rw [key]
    constructor
    · intro down
      rw [down]
      exact ⟨State.npc_add_two s, State.npc_eq s⟩
    · intro up
      rw [up]
      exact ⟨State.npc_eq s, State.npc_add_two s⟩

/-- Settles O54: `exec_waitKey_cases`, an event's key being one of 0 to 15 by its type. -/
theorem waitKeyHoldsUntilAKeyPress : Obligations.WaitKeyHoldsUntilAKeyPress := by
  intro x s
  rcases exec_waitKey_cases x s with ⟨held, answer⟩ | ⟨key, event, answer⟩
  · exact ⟨fun key event => (nomatch held.symm.trans event), fun _ => answer⟩
  · refine ⟨fun key' event' => ⟨_, answer, ?index, rfl, State.npc_eq s, ?frame, rfl, ⟨rfl, fun _ => rfl⟩,
      ⟨rfl, rfl, rfl, rfl⟩, fun _ => rfl, fun _ _ => rfl, ⟨rfl, rfl⟩, rfl, rfl⟩,
      fun held => nomatch held.symm.trans event⟩
    case index =>
      obtain rfl := Option.some.inj (event.symm.trans event')
      have := key.isLt
      rw [State.advance_reg, State.reg_setReg_self, BitVec.toNat_ofNat, Nat.mod_eq_of_lt (by omega)]
    case frame => exact fun r other => State.reg_setReg_ne _ _ (List.mem_singleton.not.mp other)

end Sys2Proof.Proofs
end
